-- ==== Sys2Proof/Word.lean ====
section
/-! DEFINITION. The words of the block (00_scope.md R9): bytes and nibbles, and the closed enumerations that
command operands and session fields range over (30_encoding.md R82). -/

namespace Sys2Proof

/-- A byte, 8 bits, bit 7 most significant (R9): every opcode, parameter byte and buffer byte, and every numeric
parameter of an intent (R7, PARAM_BITS = 8). -/
abbrev Byte := BitVec 8

/-- A nibble, 4 bits: one grayscale pixel value (R9, R14). -/
abbrev Nibble := BitVec 4

/-- Increment axis of SetRemapping (R120). -/
inductive Axis where
  | horizontal
  | vertical
deriving DecidableEq, Repr

/-- Direction of the column remap and of the nibble remap (R120). -/
inductive Direction where
  | forward
  | reverse
deriving DecidableEq, Repr

/-- COM scan direction (R120). -/
inductive ScanDirection where
  | firstRowFirst
  | lastRowFirst
deriving DecidableEq, Repr

/-- COM layout (R120): one three-valued setting, so interlaced and dual-progressive exclude each other. -/
inductive ComLayout where
  | progressive
  | interlaced
  | dualProgressive
deriving DecidableEq, Repr

/-- The selector of SetDisplayMode (R123). -/
inductive DisplayMode where
  | allOff
  | allOn
  | normal
  | inverse
deriving DecidableEq, Repr

/-- The session's orientation (R28): one of two supported display mappings. -/
inductive Orientation where
  | standard
  | inverted
deriving DecidableEq, Repr

end Sys2Proof
end

