-- ==== Sys2Proof/Config.lean ====
section
/-! DEFINITION. The OPEN parameters of 00_scope.md R7: what an implementation fixes and the source leaves to it. A
Config is carried by the state and no step changes it, so a statement about every state holds for every choice. The
parameters that R7 gives one value are named in Sys2Proof/Machine/Params.lean. -/

namespace Sys2Proof

/-- The parameter values of the initialization list (R7, R176, D24): open, each an 8-bit value. -/
structure InitParams where
  phase1 : Byte
  phase2 : Byte
  fosc : Byte
  divset : Byte
  precharge2 : Byte
  vprecharge : Byte
  vcomh : Byte
  contrast : Byte
  masterContrast : Byte
  mux : Byte
deriving DecidableEq, Repr

/-- The open parameters (R7). -/
structure Config where
  /-- EXT_COMMANDS: whether the three extension commands are admitted (R86, D19). -/
  extCommands : Bool
  /-- FB_WIDTH, in pixels (D8). -/
  fbWidth : Nat
  /-- FB_HEIGHT, in pixels (D8). -/
  fbHeight : Nat
  /-- CFG_ORIENTATION (R28). -/
  orientation : Orientation
  /-- CFG_INVERTED (R29). -/
  inverted : Bool
  /-- The INIT_* values (D24). -/
  init : InitParams
deriving DecidableEq, Repr

/-- The INIT_* values State.reset uses. DESIGN CHOICE, unsafe (log entry 3): the spec gives none (N5); these are the
example values of 95_test_vectors.md P1. -/
def InitParams.example1 : InitParams :=
  { phase1 := 5, phase2 := 14, fosc := 9, divset := 1, precharge2 := 8, vprecharge := 31, vcomh := 7,
    contrast := 159, masterContrast := 15, mux := 64 }

/-- The configuration State.reset uses: the defaults R7 states (EXT_COMMANDS false, 256 x 64) and, where R7 gives
none, the values of log entry 3 (DESIGN CHOICE, unsafe). -/
def Config.default : Config :=
  { extCommands := false, fbWidth := 256, fbHeight := 64, orientation := .standard, inverted := false,
    init := .example1 }

end Sys2Proof
end

