-- ==== Sys2Proof/Machine/Params.lean ====
section
/-! DEFINITION. The named parameters of 00_scope.md R7 that have one value. The opcode bytes other than 0x15 and
0xCA come to the spec from general knowledge (R85, D4, GK1), as do the limits of R121, R122, R124 and R135 (D11,
GK4): they are held as names here, in one place (log entries 1 and 2). -/

namespace Sys2Proof.Params

/-- MAX_COLUMN (R7). -/
abbrev maxColumn : Nat := 119
/-- MAX_ROW (R7). -/
abbrev maxRow : Nat := 127
/-- PANEL_PIXEL_WIDTH (R7, U11): the single admitted value. -/
abbrev panelPixelWidth : Nat := 480
/-- PIXELS_PER_COLUMN (R7). -/
abbrev pixelsPerColumn : Nat := 4
/-- GS_TABLE_LEN (R7). -/
abbrev gsTableLen : Nat := 15
/-- RESET_STEP_MS (R7). -/
abbrev resetStepMs : Nat := 1

/-- MAX_START_LINE (R121, D11). -/
abbrev maxStartLine : Nat := 127
/-- MAX_DISPLAY_OFFSET (R122, D11). -/
abbrev maxDisplayOffset : Nat := 127
/-- MAX_PRECHARGE2 (R135, D11). -/
abbrev maxPrecharge2 : Nat := 15
/-- Lower limit of the mux ratio (R126). -/
abbrev minMux : Nat := 16
/-- Upper limit of the mux ratio (R126). -/
abbrev maxMux : Nat := 128
/-- Lower limit of the phase-1 length (R132). -/
abbrev minPhase1 : Nat := 5
/-- Upper limit of the phase-1 length (R132). -/
abbrev maxPhase1 : Nat := 31
/-- Lower limit of the phase-2 length (R132). -/
abbrev minPhase2 : Nat := 3
/-- Upper limit of the phase-2 length (R132). -/
abbrev maxPhase2 : Nat := 15
/-- Upper limit of the oscillator frequency (R133). -/
abbrev maxFosc : Nat := 15
/-- Upper limit of the divider selection (R133). -/
abbrev maxDivset : Nat := 10
/-- Upper limit of the pre-charge voltage code (R136). -/
abbrev maxPreChargeVoltage : Nat := 31
/-- Upper limit of the COM-deselect voltage code (R137). -/
abbrev maxComDeselectVoltage : Nat := 7
/-- Upper limit of the master contrast (R147). -/
abbrev maxMasterContrast : Nat := 15

/-- R86. -/
abbrev opcEnableGrayScaleTable : Byte := 0x00
/-- R85, stated by the source. -/
abbrev opcSetColumnAddress : Byte := 0x15
/-- R85. -/
abbrev opcWriteRam : Byte := 0x5C
/-- R85. -/
abbrev opcReadRam : Byte := 0x5D
/-- R85. -/
abbrev opcSetRowAddress : Byte := 0x75
/-- R85. -/
abbrev opcSetRemapping : Byte := 0xA0
/-- R85. -/
abbrev opcSetStartLine : Byte := 0xA1
/-- R85. -/
abbrev opcSetDisplayOffset : Byte := 0xA2
/-- R85, R123. -/
abbrev opcDisplayAllOff : Byte := 0xA4
/-- R85, R123. -/
abbrev opcDisplayAllOn : Byte := 0xA5
/-- R85, R123. -/
abbrev opcDisplayNormal : Byte := 0xA6
/-- R85, R123. -/
abbrev opcDisplayInverse : Byte := 0xA7
/-- R86. -/
abbrev opcEnablePartialDisplay : Byte := 0xA8
/-- R85. -/
abbrev opcDisablePartialDisplay : Byte := 0xA9
/-- R85. -/
abbrev opcFunctionSelect : Byte := 0xAB
/-- R85, R131. -/
abbrev opcSleepOn : Byte := 0xAE
/-- R85, R131. -/
abbrev opcSleepOff : Byte := 0xAF
/-- R85. -/
abbrev opcSetPhaseLengths : Byte := 0xB1
/-- R85. -/
abbrev opcSetClockFoscDivset : Byte := 0xB3
/-- R85. -/
abbrev opcSetDisplayEnhancements : Byte := 0xB4
/-- R85. -/
abbrev opcSetSecondPrechargePeriod : Byte := 0xB6
/-- R86. -/
abbrev opcSetGrayScaleTable : Byte := 0xB8
/-- R85. -/
abbrev opcSetDefaultGrayScaleTable : Byte := 0xB9
/-- R85. -/
abbrev opcSetPreChargeVoltage : Byte := 0xBB
/-- R85. -/
abbrev opcSetComDeselectVoltage : Byte := 0xBE
/-- R85. -/
abbrev opcSetContrastCurrent : Byte := 0xC1
/-- R85. -/
abbrev opcSetMasterContrast : Byte := 0xC7
/-- R85, stated by the source. -/
abbrev opcSetMuxRatio : Byte := 0xCA
/-- R85. -/
abbrev opcSetCommandLock : Byte := 0xFD

end Sys2Proof.Params
end

