-- ==== Sys2Proof/Machine/Operands.lean ====
section
/-! DEFINITION. Every operand form: the assembly of parameter bytes (30_encoding.md R88 to R92), its inverse for the
decoder (R93, R94), and the pixel operand of the Frame Store (20_memory.md R52, R53). The bit layouts come to the spec
from general knowledge (D12, GK2, GK3); log entry 2. -/

namespace Sys2Proof.Operands

/-- `lo ..= hi` on an 8-bit operand, in the spec's closed-range notation (R10). -/
def inRange (lo hi : Nat) (v : Byte) : Bool := decide (lo ≤ v.toNat ∧ v.toNat ≤ hi)

/-! ### SetRemapping (R89) -/

/-- Bit 0 of p0. -/
def axisBit : Axis → Byte
  | .horizontal => 0
  | .vertical => 1

/-- Bit 1 of p0: `Reverse` is 1. -/
def columnBit : Direction → Byte
  | .forward => 0
  | .reverse => 1

/-- Bit 2 of p0: `Forward` is 1, the opposite sense of the column bit. -/
def nibbleBit : Direction → Byte
  | .forward => 1
  | .reverse => 0

/-- Bit 4 of p0. -/
def scanBit : ScanDirection → Byte
  | .firstRowFirst => 0
  | .lastRowFirst => 1

/-- Bit 5 of p0: 1 only for `Interlaced`. -/
def interlaceBit : ComLayout → Byte
  | .progressive => 0
  | .interlaced => 1
  | .dualProgressive => 0

/-- Bit 4 of p1: 1 only for `DualProgressive`. -/
def dualBit : ComLayout → Byte
  | .progressive => 0
  | .interlaced => 0
  | .dualProgressive => 1

/-- First parameter byte of SetRemapping. -/
def remapP0 (axis : Axis) (col nib : Direction) (scan : ScanDirection) (layout : ComLayout) : Byte :=
  axisBit axis ||| (columnBit col <<< 1) ||| (nibbleBit nib <<< 2) ||| (scanBit scan <<< 4) |||
    (interlaceBit layout <<< 5)

/-- Second parameter byte of SetRemapping. -/
def remapP1 (layout : ComLayout) : Byte := 0x01 ||| (dualBit layout <<< 4)

/-- The axis field of p0. -/
def axisOf (p0 : Byte) : Axis := if p0.getLsbD 0 then .vertical else .horizontal
/-- The column field of p0. -/
def columnOf (p0 : Byte) : Direction := if p0.getLsbD 1 then .reverse else .forward
/-- The nibble field of p0. -/
def nibbleDirOf (p0 : Byte) : Direction := if p0.getLsbD 2 then .forward else .reverse
/-- The scan field of p0. -/
def scanOf (p0 : Byte) : ScanDirection := if p0.getLsbD 4 then .lastRowFirst else .firstRowFirst

/-- The COM layout the two bytes name, if the constant bits of both hold and at most one of the interlace and dual
bits is set (R89). -/
def layoutOf (p0 p1 : Byte) : Option ComLayout :=
  if p0 &&& 0xC8 = 0 then
    if p1 = 0x01 then some (if p0.getLsbD 5 then .interlaced else .progressive)
    else if p1 = 0x11 ∧ p0.getLsbD 5 = false then some .dualProgressive
    else none
  else none

/-! ### Packed numerics (R88, R90, R91) -/

/-- Parameter byte of SetMuxRatio: the zero-based count (R88). -/
def muxByte (ratio : Byte) : Byte := ratio - 1

/-- Parameter byte of SetPhaseLengths (R90): `((phase1 - 1) >> 1) | (phase2 << 4)`. -/
def phaseByte (phase1 phase2 : Byte) : Byte := ((phase1 - 1) >>> 1) ||| (phase2 <<< 4)

/-- The phase-1 field, bits 3:0. -/
def phase1Field (p0 : Byte) : Byte := p0 &&& 0x0F
/-- The phase-2 field, bits 7:4. -/
def phase2Field (p0 : Byte) : Byte := p0 >>> 4
/-- The canonical phase-1 length of a field: the odd value (R94, D32). -/
def phase1OfField (f : Byte) : Byte := (f <<< 1) ||| 1

/-- Parameter byte of SetClockFoscDivset (R91): `(fosc << 4) | divset`. -/
def clockByte (fosc divset : Byte) : Byte := (fosc <<< 4) ||| divset

/-! ### Constant-pattern parameters (R92) -/

/-- Parameter byte of FunctionSelect. -/
def functionSelectByte (internalVdd : Bool) : Byte := if internalVdd then 0x01 else 0x00
/-- First parameter byte of SetDisplayEnhancements. -/
def extVslByte (extVsl : Bool) : Byte := if extVsl then 0xA0 else 0xA2
/-- Second parameter byte of SetDisplayEnhancements. -/
def enhLowGsByte (enhLowGs : Bool) : Byte := if enhLowGs then 0xFD else 0xB5
/-- Parameter byte of SetCommandLock. -/
def commandLockByte (lock : Bool) : Byte := if lock then 0x16 else 0x12

/-- The Boolean a constant-pattern byte carries: `whenTrue` and `whenFalse` are its only two values. -/
def boolOf (whenTrue whenFalse : Byte) (p : Byte) : Option Bool :=
  if p = whenTrue then some true else if p = whenFalse then some false else none

/-! ### The pixel operand (20_memory.md R52, R53) -/

/-- Byte index of pixel (x, y) in a store of this width: `(y*width + x) / 2`. -/
def byteIndex (width x y : Nat) : Nat := (y * width + x) / 2

/-- The 4 bits of byte `b` that a pixel with this x occupies: even x bits 7:4, odd x bits 3:0. -/
def nibbleOf (b : Byte) (x : Nat) : Nibble :=
  if x % 2 = 0 then b.extractLsb' 4 4 else b.extractLsb' 0 4

/-- Byte `old` with the nibble of a pixel at this x replaced, the other nibble kept (R155). -/
def withNibble (old : Byte) (x : Nat) (color : Nibble) : Byte :=
  if x % 2 = 0 then (color.setWidth 8 <<< 4) ||| (old &&& 0x0F) else (old &&& 0xF0) ||| color.setWidth 8

/-- The byte `clear` writes: the color in both nibbles (R156). -/
def fillByte (color : Nibble) : Byte := (color.setWidth 8 <<< 4) ||| color.setWidth 8

end Sys2Proof.Operands
end

