-- ==== Sys2Proof/Syntax.lean ====
section
/-! DEFINITION. The command intents (30_encoding.md R82, R85, R86): one constructor per row of opcode_table.json.
SetDisplayMode and SetSleepMode, whose selector picks the opcode byte, have one constructor per selector value, as
R87 allows. Constructing an intent validates nothing (R82): every numeric parameter is any 8-bit value. -/

namespace Sys2Proof

/-- A command intent. Constructor order is ascending opcode, the order of the table. -/
inductive Instr where
  /-- R148, extension. -/
  | enableGrayScaleTable
  /-- R110. -/
  | setColumnAddress (start stop : Byte)
  /-- R112. -/
  | writeRam
  /-- R113. -/
  | readRam
  /-- R111. -/
  | setRowAddress (start stop : Byte)
  /-- R120. -/
  | setRemapping (axis : Axis) (col nib : Direction) (scan : ScanDirection) (layout : ComLayout)
  /-- R121. -/
  | setStartLine (line : Byte)
  /-- R122. -/
  | setDisplayOffset (line : Byte)
  /-- R123, mode AllOff. -/
  | setDisplayModeAllOff
  /-- R123, mode AllOn. -/
  | setDisplayModeAllOn
  /-- R123, mode Normal. -/
  | setDisplayModeNormal
  /-- R123, mode Inverse. -/
  | setDisplayModeInverse
  /-- R124, extension. -/
  | enablePartialDisplay (start stop : Byte)
  /-- R125. -/
  | disablePartialDisplay
  /-- R130. -/
  | functionSelect (internalVdd : Bool)
  /-- R131, on = true. -/
  | setSleepModeTrue
  /-- R131, on = false. -/
  | setSleepModeFalse
  /-- R132. -/
  | setPhaseLengths (phase1 phase2 : Byte)
  /-- R133. -/
  | setClockFoscDivset (fosc divset : Byte)
  /-- R134. -/
  | setDisplayEnhancements (extVsl enhLowGs : Bool)
  /-- R135. -/
  | setSecondPrechargePeriod (period : Byte)
  /-- R149, extension: a table of any length. -/
  | setGrayScaleTable (table : List Byte)
  /-- R145. -/
  | setDefaultGrayScaleTable
  /-- R136. -/
  | setPreChargeVoltage (v : Byte)
  /-- R137. -/
  | setComDeselectVoltage (v : Byte)
  /-- R146. -/
  | setContrastCurrent (c : Byte)
  /-- R147. -/
  | setMasterContrast (c : Byte)
  /-- R126: the count of lines, not the zero-based value. -/
  | setMuxRatio (ratio : Byte)
  /-- R138. -/
  | setCommandLock (lock : Bool)
deriving DecidableEq, Repr

end Sys2Proof
end

