-- ==== Sys2Proof/WellFormed.lean ====
section
/-! DEFINITION. Well-formed intents (30_encoding.md R83: the parameters lie in their commands' ranges), admitted
intents (R86), and legal dimensions of a Frame Store (00_scope.md R8). An ill-formed intent is a value all the same:
presenting it gives an error result (R82, R242). -/

namespace Sys2Proof

open Params Operands

/-- The parameters of the intent lie in the ranges of its command's rule. -/
def Instr.wf : Instr → Bool
  | .enableGrayScaleTable => true
  | .setColumnAddress start stop => inRange 0 maxColumn start && inRange 0 maxColumn stop
  | .writeRam => true
  | .readRam => true
  | .setRowAddress start stop => inRange 0 maxRow start && inRange 0 maxRow stop
  | .setRemapping _ _ _ _ _ => true
  | .setStartLine line => inRange 0 maxStartLine line
  | .setDisplayOffset line => inRange 0 maxDisplayOffset line
  | .setDisplayModeAllOff => true
  | .setDisplayModeAllOn => true
  | .setDisplayModeNormal => true
  | .setDisplayModeInverse => true
  | .enablePartialDisplay start stop =>
    inRange 0 maxRow start && inRange 0 maxRow stop && decide (start.toNat ≤ stop.toNat)
  | .disablePartialDisplay => true
  | .functionSelect _ => true
  | .setSleepModeTrue => true
  | .setSleepModeFalse => true
  | .setPhaseLengths phase1 phase2 => inRange minPhase1 maxPhase1 phase1 && inRange minPhase2 maxPhase2 phase2
  | .setClockFoscDivset fosc divset => inRange 0 maxFosc fosc && inRange 0 maxDivset divset
  | .setDisplayEnhancements _ _ => true
  | .setSecondPrechargePeriod period => inRange 0 maxPrecharge2 period
  | .setGrayScaleTable table => table.length == gsTableLen
  | .setDefaultGrayScaleTable => true
  | .setPreChargeVoltage v => inRange 0 maxPreChargeVoltage v
  | .setComDeselectVoltage v => inRange 0 maxComDeselectVoltage v
  | .setContrastCurrent _ => true
  | .setMasterContrast c => inRange 0 maxMasterContrast c
  | .setMuxRatio ratio => inRange minMux maxMux ratio
  | .setCommandLock _ => true

/-- The three extension commands (R86). -/
def Instr.isExtension : Instr → Bool
  | .enableGrayScaleTable => true
  | .enablePartialDisplay _ _ => true
  | .setGrayScaleTable _ => true
  | .setColumnAddress _ _ => false
  | .writeRam => false
  | .readRam => false
  | .setRowAddress _ _ => false
  | .setRemapping _ _ _ _ _ => false
  | .setStartLine _ => false
  | .setDisplayOffset _ => false
  | .setDisplayModeAllOff => false
  | .setDisplayModeAllOn => false
  | .setDisplayModeNormal => false
  | .setDisplayModeInverse => false
  | .disablePartialDisplay => false
  | .functionSelect _ => false
  | .setSleepModeTrue => false
  | .setSleepModeFalse => false
  | .setPhaseLengths _ _ => false
  | .setClockFoscDivset _ _ => false
  | .setDisplayEnhancements _ _ => false
  | .setSecondPrechargePeriod _ => false
  | .setDefaultGrayScaleTable => false
  | .setPreChargeVoltage _ => false
  | .setComDeselectVoltage _ => false
  | .setContrastCurrent _ => false
  | .setMasterContrast _ => false
  | .setMuxRatio _ => false
  | .setCommandLock _ => false

/-- The intent exists in the intent type of a machine with this EXT_COMMANDS (R86). -/
def Instr.admitted (ext : Bool) (i : Instr) : Bool := ext || !i.isExtension

/-- Legal Frame Store dimensions, R8 (a) and (b): an even width of at least 2, a height of at least 1. -/
def dimsWf (width height : Nat) : Bool := width % 2 == 0 && decide (2 ≤ width) && decide (1 ≤ height)

/-- A legal configuration (R8). (c) holds by the definition of the buffer's length; breaking (d) is legal. -/
def Config.wf (c : Config) : Bool := dimsWf c.fbWidth c.fbHeight

end Sys2Proof
end

