-- ==== Sys2Proof/Decode.lean ====
section
/-! DEFINITION. The decoder of wire images and the encoder it inverts (30_encoding.md R81, R84 to R95). The decoder is
total and rejects by name (R93). The block itself has no raw-opcode input (R93, D31): the machine is presented intents,
and decodes nothing; `encode` here is the wire image of an intent, without the range checks. -/

namespace Sys2Proof

open Params Operands

/-! ### The encoder -/

/-- The opcode byte (R85, R86, R87). -/
def Instr.opcode : Instr → Byte
  | .enableGrayScaleTable => opcEnableGrayScaleTable
  | .setColumnAddress _ _ => opcSetColumnAddress
  | .writeRam => opcWriteRam
  | .readRam => opcReadRam
  | .setRowAddress _ _ => opcSetRowAddress
  | .setRemapping _ _ _ _ _ => opcSetRemapping
  | .setStartLine _ => opcSetStartLine
  | .setDisplayOffset _ => opcSetDisplayOffset
  | .setDisplayModeAllOff => opcDisplayAllOff
  | .setDisplayModeAllOn => opcDisplayAllOn
  | .setDisplayModeNormal => opcDisplayNormal
  | .setDisplayModeInverse => opcDisplayInverse
  | .enablePartialDisplay _ _ => opcEnablePartialDisplay
  | .disablePartialDisplay => opcDisablePartialDisplay
  | .functionSelect _ => opcFunctionSelect
  | .setSleepModeTrue => opcSleepOn
  | .setSleepModeFalse => opcSleepOff
  | .setPhaseLengths _ _ => opcSetPhaseLengths
  | .setClockFoscDivset _ _ => opcSetClockFoscDivset
  | .setDisplayEnhancements _ _ => opcSetDisplayEnhancements
  | .setSecondPrechargePeriod _ => opcSetSecondPrechargePeriod
  | .setGrayScaleTable _ => opcSetGrayScaleTable
  | .setDefaultGrayScaleTable => opcSetDefaultGrayScaleTable
  | .setPreChargeVoltage _ => opcSetPreChargeVoltage
  | .setComDeselectVoltage _ => opcSetComDeselectVoltage
  | .setContrastCurrent _ => opcSetContrastCurrent
  | .setMasterContrast _ => opcSetMasterContrast
  | .setMuxRatio _ => opcSetMuxRatio
  | .setCommandLock _ => opcSetCommandLock

/-- The parameter bytes, in wire order (R59, R88 to R92). -/
def Instr.params : Instr → List Byte
  | .enableGrayScaleTable => []
  | .setColumnAddress start stop => [start, stop]
  | .writeRam => []
  | .readRam => []
  | .setRowAddress start stop => [start, stop]
  | .setRemapping axis col nib scan layout => [remapP0 axis col nib scan layout, remapP1 layout]
  | .setStartLine line => [line]
  | .setDisplayOffset line => [line]
  | .setDisplayModeAllOff => []
  | .setDisplayModeAllOn => []
  | .setDisplayModeNormal => []
  | .setDisplayModeInverse => []
  | .enablePartialDisplay start stop => [start, stop]
  | .disablePartialDisplay => []
  | .functionSelect internalVdd => [functionSelectByte internalVdd]
  | .setSleepModeTrue => []
  | .setSleepModeFalse => []
  | .setPhaseLengths phase1 phase2 => [phaseByte phase1 phase2]
  | .setClockFoscDivset fosc divset => [clockByte fosc divset]
  | .setDisplayEnhancements extVsl enhLowGs => [extVslByte extVsl, enhLowGsByte enhLowGs]
  | .setSecondPrechargePeriod period => [period]
  | .setGrayScaleTable table => table
  | .setDefaultGrayScaleTable => []
  | .setPreChargeVoltage v => [v]
  | .setComDeselectVoltage v => [v]
  | .setContrastCurrent c => [c]
  | .setMasterContrast c => [c]
  | .setMuxRatio ratio => [muxByte ratio]
  | .setCommandLock lock => [commandLockByte lock]

/-- The wire image of an intent: the opcode byte, then the parameter bytes (R81). -/
def encode (i : Instr) : List Byte := i.opcode :: i.params

/-- The canonical intent of a wire image: phase 1 is recovered only up to the pair (2k+1, 2k+2) (R94, D32). -/
def Instr.canonical : Instr → Instr
  | .setPhaseLengths phase1 phase2 => .setPhaseLengths (phase1OfField ((phase1 - 1) >>> 1)) phase2
  | i => i

/-! ### The decoder -/

/-- Why a byte string is no encoded command (R93). -/
inductive Reject where
  /-- No byte at all. -/
  | empty
  /-- Byte 0 is in none of the tables of R85 and (with EXT_COMMANDS) R86. -/
  | unknownOpcode (op : Byte)
  /-- The number of parameter bytes is not the one of the opcode's format. -/
  | wrongLength (op : Byte)
  /-- A parameter byte is outside the image of the command's rule. -/
  | badParameter (op : Byte)
deriving DecidableEq, Repr

/-- What the decoder answers. -/
inductive Decoded where
  | instr (i : Instr)
  | rejected (r : Reject)
deriving DecidableEq, Repr

/-- One row of the opcode map: the opcode byte, the parameter count of its format, whether it is an extension, and
how the parameter bytes are read. -/
structure Row where
  opcode : Byte
  paramCount : Nat
  extension : Bool
  read : List Byte → Option Instr

/-- No parameter byte (format F0). -/
def readNone (i : Instr) : List Byte → Option Instr
  | [] => some i
  | _ => none

/-- One parameter byte that is the operand itself, in `lo ..= hi` (format F1, R88). -/
def readOne (lo hi : Nat) (mk : Byte → Instr) : List Byte → Option Instr
  | [v] => if inRange lo hi v then some (mk v) else none
  | _ => none

/-- Two parameter bytes that are the operands themselves, each at most `hi` (format F2, R88). -/
def readTwo (hi : Nat) (mk : Byte → Byte → Instr) : List Byte → Option Instr
  | [a, b] => if inRange 0 hi a && inRange 0 hi b then some (mk a b) else none
  | _ => none

/-- The parameter bytes of EnablePartialDisplay: `start <= end` besides the range (R124). -/
def readPartial : List Byte → Option Instr
  | [a, b] =>
    if inRange 0 maxRow a && inRange 0 maxRow b && decide (a.toNat ≤ b.toNat) then some (.enablePartialDisplay a b)
    else none
  | _ => none

/-- The parameter bytes of SetRemapping (R89). -/
def readRemapping : List Byte → Option Instr
  | [p0, p1] =>
    match layoutOf p0 p1 with
    | some layout => some (.setRemapping (axisOf p0) (columnOf p0) (nibbleDirOf p0) (scanOf p0) layout)
    | none => none
  | _ => none

/-- The parameter byte of SetPhaseLengths (R90, R94): the phase-1 field lies in 2 ..= 15, phase 2 in 3 ..= 15. -/
def readPhases : List Byte → Option Instr
  | [p0] =>
    if inRange 2 15 (phase1Field p0) && inRange minPhase2 maxPhase2 (phase2Field p0) then
      some (.setPhaseLengths (phase1OfField (phase1Field p0)) (phase2Field p0))
    else none
  | _ => none

/-- The parameter byte of SetClockFoscDivset (R91): the divider field lies in 0 ..= 10. -/
def readClock : List Byte → Option Instr
  | [p0] =>
    if inRange 0 maxDivset (p0 &&& 0x0F) then some (.setClockFoscDivset (p0 >>> 4) (p0 &&& 0x0F)) else none
  | _ => none

/-- The parameter byte of SetMuxRatio: `ratio - 1`, in 15 ..= 127 (R88, R126). -/
def readMux : List Byte → Option Instr
  | [p0] => if inRange (minMux - 1) (maxMux - 1) p0 then some (.setMuxRatio (p0 + 1)) else none
  | _ => none

/-- One constant-pattern byte (R92). -/
def readBool (whenTrue whenFalse : Byte) (mk : Bool → Instr) : List Byte → Option Instr
  | [p] => (boolOf whenTrue whenFalse p).map mk
  | _ => none

/-- The two constant-pattern bytes of SetDisplayEnhancements (R92). -/
def readEnhancements : List Byte → Option Instr
  | [p0, p1] =>
    match boolOf 0xA0 0xA2 p0, boolOf 0xFD 0xB5 p1 with
    | some extVsl, some enhLowGs => some (.setDisplayEnhancements extVsl enhLowGs)
    | _, _ => none
  | _ => none

/-- The 15 table bytes of SetGrayScaleTable (format FT); entries are not validated (R149). -/
def readTable (table : List Byte) : Option Instr :=
  if table.length = gsTableLen then some (.setGrayScaleTable table) else none

/-- Address and RAM rows (R85). -/
def rowsAddress : List Row :=
  [⟨opcSetColumnAddress, 2, false, readTwo maxColumn .setColumnAddress⟩,
   ⟨opcWriteRam, 0, false, readNone .writeRam⟩,
   ⟨opcReadRam, 0, false, readNone .readRam⟩,
   ⟨opcSetRowAddress, 2, false, readTwo maxRow .setRowAddress⟩]

/-- Geometry and display-mode rows (R85, R86). -/
def rowsGeometry : List Row :=
  [⟨opcSetRemapping, 2, false, readRemapping⟩,
   ⟨opcSetStartLine, 1, false, readOne 0 maxStartLine .setStartLine⟩,
   ⟨opcSetDisplayOffset, 1, false, readOne 0 maxDisplayOffset .setDisplayOffset⟩,
   ⟨opcDisplayAllOff, 0, false, readNone .setDisplayModeAllOff⟩,
   ⟨opcDisplayAllOn, 0, false, readNone .setDisplayModeAllOn⟩,
   ⟨opcDisplayNormal, 0, false, readNone .setDisplayModeNormal⟩,
   ⟨opcDisplayInverse, 0, false, readNone .setDisplayModeInverse⟩,
   ⟨opcEnablePartialDisplay, 2, true, readPartial⟩,
   ⟨opcDisablePartialDisplay, 0, false, readNone .disablePartialDisplay⟩,
   ⟨opcSetMuxRatio, 1, false, readMux⟩]

/-- Power, timing, voltage and lock rows (R85). -/
def rowsPower : List Row :=
  [⟨opcFunctionSelect, 1, false, readBool 0x01 0x00 .functionSelect⟩,
   ⟨opcSleepOn, 0, false, readNone .setSleepModeTrue⟩,
   ⟨opcSleepOff, 0, false, readNone .setSleepModeFalse⟩,
   ⟨opcSetPhaseLengths, 1, false, readPhases⟩,
   ⟨opcSetClockFoscDivset, 1, false, readClock⟩,
   ⟨opcSetDisplayEnhancements, 2, false, readEnhancements⟩,
   ⟨opcSetSecondPrechargePeriod, 1, false, readOne 0 maxPrecharge2 .setSecondPrechargePeriod⟩,
   ⟨opcSetPreChargeVoltage, 1, false, readOne 0 maxPreChargeVoltage .setPreChargeVoltage⟩,
   ⟨opcSetComDeselectVoltage, 1, false, readOne 0 maxComDeselectVoltage .setComDeselectVoltage⟩,
   ⟨opcSetCommandLock, 1, false, readBool 0x16 0x12 .setCommandLock⟩]

/-- Gray-scale and contrast rows (R85, R86). -/
def rowsGray : List Row :=
  [⟨opcEnableGrayScaleTable, 0, true, readNone .enableGrayScaleTable⟩,
   ⟨opcSetGrayScaleTable, gsTableLen, true, readTable⟩,
   ⟨opcSetDefaultGrayScaleTable, 0, false, readNone .setDefaultGrayScaleTable⟩,
   ⟨opcSetContrastCurrent, 1, false, readOne 0 255 .setContrastCurrent⟩,
   ⟨opcSetMasterContrast, 1, false, readOne 0 maxMasterContrast .setMasterContrast⟩]

/-- The opcode map (R85, R86). -/
def rows : List Row := rowsAddress ++ rowsGeometry ++ rowsPower ++ rowsGray

/-- The row of an opcode byte; extension rows only with EXT_COMMANDS (R84, R86). -/
def rowOf (ext : Bool) (op : Byte) : Option Row :=
  rows.find? (fun r => r.opcode == op && (ext || !r.extension))

/-- The decoder (R93): a byte string is one encoded command or is rejected by name. -/
def decode (ext : Bool) : List Byte → Decoded
  | [] => .rejected .empty
  | op :: ps =>
    match rowOf ext op with
    | none => .rejected (.unknownOpcode op)
    | some r =>
      if ps.length = r.paramCount then
        match r.read ps with
        | some i => .instr i
        | none => .rejected (.badParameter op)
      else .rejected (.wrongLength op)

/-! ### The opcode table's numbering -/

/-- The `n` bytes of `w` read as one big-endian number, byte 0 first (INDEX.md: `match` and `mask` are "one big-endian
number"; opcode_table.json's `fixed` numbers bits so). DEDUCED, log entry 7. -/
def bigEndianBytes (n w : Nat) : List Byte :=
  (List.range n).map (fun k => BitVec.ofNat 8 (w >>> (8 * (n - 1 - k))))

/-- The wire image extended with zero parameter bytes up to the length of its opcode's format. -/
def padParams : List Byte → List Byte
  | [] => []
  | op :: ps =>
    match rowOf true op with
    | none => op :: ps
    | some r => op :: (ps ++ List.replicate (r.paramCount - ps.length) 0)

/-- The intent that the decoder, with every row of the table admitted, reads from an instruction of `nbits` bits whose
bits are `w`. -/
def decodeTableWord (nbits w : Nat) : Option Instr :=
  match decode true (padParams (bigEndianBytes (nbits / 8) w)) with
  | .instr i => some i
  | .rejected _ => none

end Sys2Proof
end

