-- ==== Sys2Proof/Machine/State.lean ====
section
/-! DEFINITION. The state of the machine as plain data (10_state.md), the ports' payloads (R33), the reasons a step can
stop, and the state after construction (R34). -/

namespace Sys2Proof.Machine

/-! ### Results (10_state.md R33, 00_scope.md R12, 60_exceptions.md R200) -/

/-- The codec's two error kinds (R12, R200). -/
inductive EncodingError where
  | outOfRange
  | badTableLength
deriving DecidableEq, Repr

/-- The transport's own error value, opaque to the block (R203): carried, never inspected. -/
abbrev TransportError := Nat

/-- The closed error taxonomy (R200). -/
inductive ErrorKind where
  | outOfRange
  | badTableLength
  /-- Wraps the transport's own error (R203). -/
  | communicationFailure (e : TransportError)
  /-- Part of the taxonomy; no rule produces it (R204). -/
  | pinFailure
deriving DecidableEq, Repr

/-- An encoded command (R80): the parameters are exactly the `parameter_count` meaningful bytes (R32, D7), so an unused
parameter byte has no existence. -/
structure EncodedCommand where
  opcode : Byte
  params : List Byte
deriving DecidableEq, Repr

/-- What `encode` returns (R12). -/
inductive CodecResult where
  | ok (c : EncodedCommand)
  | err (e : EncodingError)
deriving DecidableEq, Repr

/-- What a session operation returns (R12): `Ok(())` or `Err(kind)`. -/
inductive SessionResult where
  | ok
  | err (e : ErrorKind)
deriving DecidableEq, Repr

/-- One entry of the list of results returned (R245), by the port that returned it (R33). -/
inductive Result where
  /-- codec.result. -/
  | codec (r : CodecResult)
  /-- session.result. -/
  | session (r : SessionResult)
  /-- fs.get_pixel: no value out of bounds (R157, D15). -/
  | pixel (v : Option Nibble)
  /-- fs.dims. -/
  | dims (width height : Nat)
  /-- fs.readout. -/
  | bytes (bs : List Byte)
  /-- The reference to a Frame Store that was constructed. -/
  | frameStore (k : Nat)
deriving DecidableEq, Repr

/-! ### The bus (00_scope.md R13) -/

/-- The three pins (C3). -/
inductive Pin where
  | dc
  | res
  | pwr
deriving DecidableEq, Repr

/-- A level a pin is asked to go to. -/
inductive Level where
  | low
  | high
deriving DecidableEq, Repr

/-- The level last requested of a pin, or unknown if none was (R13, R34). -/
inductive LastLevel where
  | unknown
  | driven (l : Level)
deriving DecidableEq, Repr

/-- An event of the bus trace (R13). -/
inductive BusEvent where
  | pin (p : Pin) (l : Level)
  | delay (ms : Nat)
  | tx (dc : LastLevel) (bytes : List Byte)
deriving DecidableEq, Repr

/-- What the environment does at a transport write (R13, R203, R212). -/
inductive TxReply where
  | ok
  | failed (e : TransportError)
  | cancelled
deriving DecidableEq, Repr

/-- What the environment does at a delay (R181): a delay cannot fail, it can be cancelled. -/
inductive DelayReply where
  | done
  | cancelled
deriving DecidableEq, Repr

/-! ### Memory and Frame Stores (10_state.md R24) -/

/-- The bytes of a Frame Store that differ from what an unlisted address reads as, by rising address. -/
abbrev Memory := List Host.Cell

/-- A Frame Store (R24): dimensions in pixels and the packed buffer. -/
structure FrameStore where
  width : Nat
  height : Nat
  mem : Memory
deriving DecidableEq, Repr

/-- A Frame Store at construction: every byte 0x00 (R34). -/
def FrameStore.new (width height : Nat) : FrameStore := { width, height, mem := [] }

/-! ### The session and the caller (10_state.md R26 to R29, R33) -/

/-- The session phase (R27). -/
inductive Phase where
  | uninitialized
  | reset
  | ready
deriving DecidableEq, Repr

/-- An operation on the Frame Stores (R155 to R159) or the construction of one (R34); `k` is the reference. -/
inductive FrameStoreOp where
  | construct (width height : Nat)
  | setPixel (k x y : Nat) (color : Nibble)
  | clear (k : Nat) (color : Nibble)
  | getPixel (k x y : Nat)
  | dims (k : Nat)
  | readout (k : Nat)
deriving DecidableEq, Repr

/-- An operation of the Controller Session (R33, port session.op). -/
inductive SessionOp where
  | send (i : Instr)
  | writeData (bytes : List Byte)
  | flushBuffer (bytes : List Byte)
  | hardReset
  | initializeSession
  | setOrientation (o : Orientation)
  | setAddressWindow (startX startY width height : Nat)
  | flushFrame (k : Nat)
deriving DecidableEq, Repr

/-- One transaction the caller presents on a port (R33, R246). -/
inductive Request where
  /-- codec.intent. -/
  | encode (i : Instr)
  /-- The fs ports. -/
  | frameStore (op : FrameStoreOp)
  /-- session.op. -/
  | session (op : SessionOp)
deriving DecidableEq, Repr

/-- The machine: the state the spec gives it (R24, R26, R34), what is observed of it (R13, R245), its open parameters
(R7), and the inputs the caller and the environment have queued (log entries 5 and 6). -/
structure State where
  /-- The open parameters; constant (R7). -/
  config : Config
  /-- R27. -/
  phase : Phase
  /-- A transport write has failed or been cancelled and no `initialize` has succeeded since: the time in which U3 refuses
  every session operation but hard_reset and initialize (R240; log entry 24). -/
  recoveryDue : Bool
  /-- R28. -/
  orientation : Orientation
  /-- R29. -/
  inverted : Bool
  /-- Level last requested of DC (R13, R31). -/
  pinDc : LastLevel
  /-- Level last requested of RES. -/
  pinRes : LastLevel
  /-- Level last requested of PWR. -/
  pinPwr : LastLevel
  /-- The Frame Stores (R24, R25: a system may hold several). -/
  stores : List FrameStore
  /-- The bus trace, oldest event first (R13). -/
  trace : List BusEvent
  /-- The results returned, oldest first (R245). -/
  results : List Result
  /-- Operations presented and not yet begun, oldest first. -/
  requests : List Request
  /-- What the environment does at the coming transport writes. -/
  txReplies : List TxReply
  /-- What the environment does at the coming delays. -/
  delayReplies : List DelayReply
deriving DecidableEq, Repr

/-- Why a step faults. -/
inductive Fault where
  /-- A byte index at or above FB_LEN, which does not exist (R11, R57). Raised by set_pixel and get_pixel on a store
  whose dimensions are not legal (R8), which no run builds. Safe. -/
  | frameStoreIndex
deriving DecidableEq, Repr

/-- Why a step is refused: the operation has no meaning. -/
inductive Refusal where
  /-- Raised by exec for an instruction that has no meaning yet. Safe. -/
  | notModelled (mnemonic : String)
  /-- Raised for an extension intent when EXT_COMMANDS is false: the constructor then does not exist in the intent
  type (R86, D19). Safe. -/
  | extensionNotAdmitted
  /-- Raised for a session operation in a phase that does not allow it (R180, D22, U7). Safe. -/
  | wrongPhase
  /-- Raised for a direct send in phase Reset after a failed or cancelled transport write while no initialize has succeeded
  since (U3, R240; in phase Uninitialized the reason is wrongPhase). Safe. -/
  | recoveryDue
  /-- Raised for a direct send of ReadRam, in a phase that admits a send: no session operation sends it (R113, R182).
  Safe. -/
  | readRamNotSent
  /-- Raised by set_address_window for width > 480 or height = 0 (R178, D16, U8). Safe. -/
  | windowOutsideFormula
  /-- Raised by the construction of the machine with an illegal configuration, and of a further Frame Store with illegal
  dimensions (R8). Safe. -/
  | illFormedDimensions
  /-- Raised for a reference to no Frame Store: such an operation cannot be presented (R33). Safe. -/
  | noSuchFrameStore
deriving DecidableEq, Repr

/-- The fields after construction of the session and of one Frame Store (R34, R174): nothing is transmitted, no pin is
driven. Construction itself, which refuses an illegal configuration (R8), is State.construct of Machine/Ops.lean. -/
def State.initial (c : Config) : State :=
  { config := c
    phase := .uninitialized
    recoveryDue := false
    orientation := c.orientation
    inverted := c.inverted
    pinDc := .unknown
    pinRes := .unknown
    pinPwr := .unknown
    stores := [.new c.fbWidth c.fbHeight]
    trace := []
    results := []
    requests := []
    txReplies := []
    delayReplies := [] }

/-- The machine right after reset, that is after construction (R34, R230) with the default configuration. -/
def State.reset : State := .initial .default

end Sys2Proof.Machine
end

