-- ==== Sys2Proof/Machine/Flags.lean ====
section
/-! DEFINITION. The block has no flags and no condition codes (10_state.md R22): the outcome of an operation is its
result value. This file holds what stands in their place: the error kinds as the session passes them on, their numbers
(60_exceptions.md R200, D6), and the phase after an error (R210). -/

namespace Sys2Proof.Machine

/-- A codec error passes through a session operation unchanged (R171). -/
def EncodingError.toKind : EncodingError → ErrorKind
  | .outOfRange => .outOfRange
  | .badTableLength => .badTableLength

/-- The status-port rendering of an error kind (R200, D6). -/
def ErrorKind.code : ErrorKind → Nat
  | .outOfRange => 1
  | .badTableLength => 2
  | .communicationFailure _ => 3
  | .pinFailure => 4

/-- The status-port rendering of a session result: 0 is success (R200). -/
def SessionResult.code : SessionResult → Nat
  | .ok => 0
  | .err e => e.code

/-- The status-port rendering of a codec result (R200). -/
def CodecResult.code : CodecResult → Nat
  | .ok _ => 0
  | .err e => e.toKind.code

/-- `parameter_count` of an encoded command (R80). -/
def EncodedCommand.parameterCount (c : EncodedCommand) : Nat := c.params.length

/-- The wire image of an encoded command: `1 + parameter_count` bytes, opcode first (R81, R59). -/
def EncodedCommand.wire (c : EncodedCommand) : List Byte := c.opcode :: c.params

/-- The session phase after an error (R180, R210), from the phase at that point and whether the operation had put
anything on the bus: a validation error before any bus activity leaves the phase; every other error sets
Uninitialized. (A PinFailure never arises, R204; it is taken like a communication failure.) -/
def phaseAfterError (e : ErrorKind) (busTouched : Bool) (p : Phase) : Phase :=
  match e with
  | .outOfRange => if busTouched then .uninitialized else p
  | .badTableLength => if busTouched then .uninitialized else p
  | .communicationFailure _ => .uninitialized
  | .pinFailure => .uninitialized

end Sys2Proof.Machine
end

