-- ==== Sys2Proof/Machine/Ops.lean ====
section
/-! DEFINITION. The named operations over memory, Frame Stores, session fields, pins and bus, and the ONE operation that
ends a session operation, delivering its result or TAKING ITS ERROR (60_exceptions.md R209, R210, R212). There is no
return-from-error instruction: recovery is the caller's initialize (R211). -/

namespace Sys2Proof.Machine

open Params

/-! ### Memory -/

/-- What an unlisted address reads as: the construction value 0x00 (R34). -/
abbrev Memory.background : Byte := 0x00

/-- The canonical form: addresses strictly rising, no entry equal to the background. -/
abbrev Memory.wf (m : Memory) : Prop :=
  m.Pairwise (fun c d => c.1 < d.1) ∧ ∀ c ∈ m, c.2 ≠ Memory.background

/-- The byte at an address. -/
def Memory.read : Memory → Nat → Byte
  | [], _ => Memory.background
  | (a', b) :: m, a => if a' = a then b else Memory.read m a

/-- The cell that is listed for a byte, if any: none for the background. -/
def Memory.cell (a : Nat) (b : Byte) : Memory := if b = Memory.background then [] else [(a, b)]

/-- Set the byte at an address, keeping the canonical form. -/
def Memory.write : Memory → Nat → Byte → Memory
  | [], a, b => Memory.cell a b
  | (a', b') :: m, a, b =>
    if a' < a then (a', b') :: Memory.write m a b
    else if a' = a then Memory.cell a b ++ m
    else Memory.cell a b ++ (a', b') :: m

/-- The memory whose bytes 0 .. n-1 are all `b` (R156). -/
def Memory.fill (n : Nat) (b : Byte) : Memory :=
  if b = Memory.background then [] else (List.range n).map (fun a => (a, b))

/-! ### Frame Stores -/

/-- FB_LEN (R24). -/
def FrameStore.len (f : FrameStore) : Nat := f.width * f.height / 2

/-- MemRead(i, 1) (R11): no byte at or above FB_LEN. -/
def FrameStore.memRead (f : FrameStore) (i : Nat) : Option Byte :=
  if i < f.len then some (f.mem.read i) else none

/-- MemWrite(i, 1, b) (R11): no byte at or above FB_LEN. -/
def FrameStore.memWrite (f : FrameStore) (i : Nat) (b : Byte) : Option FrameStore :=
  if i < f.len then some { f with mem := f.mem.write i b } else none

/-- Every byte of the buffer set to `b` (R156). -/
def FrameStore.fill (f : FrameStore) (b : Byte) : FrameStore := { f with mem := Memory.fill f.len b }

/-- FB[0], FB[1], ..., FB[FB_LEN-1] (R159, R60). -/
def FrameStore.readout (f : FrameStore) : List Byte := (List.range f.len).map f.mem.read

/-- The coordinates name a pixel of the store (R50). -/
def FrameStore.inBounds (f : FrameStore) (x y : Nat) : Bool := decide (x < f.width) && decide (y < f.height)

/-- Legal dimensions, canonical memory, no byte outside the buffer (R8, R25). -/
abbrev FrameStore.wf (f : FrameStore) : Prop :=
  dimsWf f.width f.height = true ∧ f.mem.wf ∧ ∀ c ∈ f.mem, c.1 < f.len

/-- Byte `a` of store `k`, if there is one. -/
def State.readByte (s : State) (k a : Nat) : Option Byte :=
  match s.stores[k]? with
  | some f => f.memRead a
  | none => none

/-- Construction with a configuration (R34, R174); a configuration that breaks R8 is refused, so no machine runs with
one. -/
def State.construct (c : Config) : Host.Outcome State Fault Refusal :=
  if c.wf then .next (State.initial c) else .refused .illFormedDimensions

/-! ### Fields -/

def State.setPhase (s : State) (p : Phase) : State := { s with phase := p }
/-- Whether the session still has to be recovered (U3). -/
def State.setRecoveryDue (s : State) (b : Bool) : State := { s with recoveryDue := b }
def State.setOrientation (s : State) (o : Orientation) : State := { s with orientation := o }
/-- Replace store `k`; nothing where there is none. -/
def State.setStore (s : State) (k : Nat) (f : FrameStore) : State := { s with stores := s.stores.set k f }
def State.addStore (s : State) (f : FrameStore) : State := { s with stores := s.stores ++ [f] }
/-- Deliver a result to the caller. -/
def State.deliver (s : State) (r : Result) : State := { s with results := s.results ++ [r] }
/-- The operation `r :: rest` has been taken off the queue. -/
def State.setRequests (s : State) (rest : List Request) : State := { s with requests := rest }
def State.setTxReplies (s : State) (rest : List TxReply) : State := { s with txReplies := rest }
def State.setDelayReplies (s : State) (rest : List DelayReply) : State := { s with delayReplies := rest }
/-- Append an event to the bus trace. -/
def State.logEvent (s : State) (e : BusEvent) : State := { s with trace := s.trace ++ [e] }
/-- The level last requested of a pin. -/
def State.pin (s : State) : Pin → LastLevel
  | .dc => s.pinDc
  | .res => s.pinRes
  | .pwr => s.pinPwr
def State.setPin (s : State) (p : Pin) (l : Level) : State :=
  match p with
  | .dc => { s with pinDc := .driven l }
  | .res => { s with pinRes := .driven l }
  | .pwr => { s with pinPwr := .driven l }

/-! ### Pin levels (R7; D25, D26, GK5; log entry 2) -/

/-- DC_COMMAND_LEVEL. -/
abbrev dcCommandLevel : Level := .low
/-- DC_DATA_LEVEL. -/
abbrev dcDataLevel : Level := .high
/-- RES_ASSERT_LEVEL, stated by the source. -/
abbrev resAssertLevel : Level := .low
/-- RES deasserted. -/
abbrev resDeassertLevel : Level := .high
/-- PWR_ENABLE_LEVEL. -/
abbrev pwrEnableLevel : Level := .high

/-! ### Session steps (R12, R13): each answers the state and how the step ended -/

/-- How a step of a session operation ended. -/
inductive Flow where
  | ok
  | err (e : ErrorKind)
  | cancelled
deriving DecidableEq, Repr

/-- A state and how the steps that led to it ended. -/
structure Run where
  state : State
  flow : Flow
deriving DecidableEq, Repr

/-- The steps so far, all well. -/
def Run.ok (s : State) : Run := ⟨s, .ok⟩

/-- The `?` of R12: go on only after Ok; otherwise the enclosing operation stops here. -/
def Run.andThen (r : Run) (k : State → Run) : Run :=
  match r.flow with
  | .ok => k r.state
  | .err e => ⟨r.state, .err e⟩
  | .cancelled => ⟨r.state, .cancelled⟩

/-- Pin(p, l) (R13): cannot fail. -/
def State.drive (s : State) (p : Pin) (l : Level) : State := (s.setPin p l).logEvent (.pin p l)

/-- How a transport write with this reply ends (R203, R212). -/
def TxReply.flow : TxReply → Flow
  | .ok => .ok
  | .failed e => .err (.communicationFailure e)
  | .cancelled => .cancelled

/-- After such a reply the session has to be recovered (U3); a cancelled write counts as a failed one (R181). -/
def TxReply.needsRecovery : TxReply → Bool
  | .ok => false
  | .failed _ => true
  | .cancelled => true

/-- How a delay with this reply ends (R181). -/
def DelayReply.flow : DelayReply → Flow
  | .done => .ok
  | .cancelled => .cancelled

/-- Delay(n) (R13): the request is recorded, then the environment's next reply is taken (done if none is queued, log
entry 6). -/
def State.delay (s : State) (n : Nat) : Run :=
  let s1 := s.logEvent (.delay n)
  match s.delayReplies with
  | [] => .ok s1
  | r :: rest => ⟨s1.setDelayReplies rest, r.flow⟩

/-- Tx(bytes) (R13): the request is recorded with the level last requested of DC, then the environment's next reply is
taken (ok if none is queued, log entry 6). A failed or cancelled write is recorded as attempted (R209, R212) and
leaves the recovery due (U3, R240). -/
def State.tx (s : State) (bytes : List Byte) : Run :=
  let s1 := s.logEvent (.tx s.pinDc bytes)
  match s.txReplies with
  | [] => .ok s1
  | r :: rest => ⟨(s1.setTxReplies rest).setRecoveryDue (s.recoveryDue || r.needsRecovery), r.flow⟩

/-- Take an error (R209, R210): the phase follows phaseAfterError, the kind is delivered; all else stays as the failing
step left it. `before` is the state in which the operation began. -/
def State.takeError (before s : State) (e : ErrorKind) : State :=
  (s.setPhase (phaseAfterError e (decide (before.trace.length < s.trace.length)) s.phase)).deliver
    (.session (.err e))

/-- A cancelled operation (R212): no result, phase Uninitialized. -/
def State.takeCancellation (s : State) : State := s.setPhase .uninitialized

/-- End a session operation that began in `before`: Ok(()) delivered, or the error or the cancellation taken. -/
def State.finish (before : State) (r : Run) : State :=
  match r.flow with
  | .ok => r.state.deliver (.session .ok)
  | .err e => State.takeError before r.state e
  | .cancelled => r.state.takeCancellation

end Sys2Proof.Machine
end

