-- ==== Sys2Proof/Machine/AddressRam.lean ====
section
/-! DEFINITION. Address-range and RAM-access commands (40_address_and_ram_commands.md). Here and in the other command
files, `enc...` is the codec's pure function for one command, written from its rule's pseudocode, and `exec...` is the
transaction of presenting that intent on codec.intent: the result is delivered on codec.result, nothing else changes
(10_state.md R21, R22). -/

namespace Sys2Proof.Machine

open Params Operands

/-- `raise <Error>` of the codec (R11). -/
abbrev raise (e : EncodingError) : CodecResult := .err e

/-- `emit(op, [p0, ...])` of the codec (R11). -/
abbrev emit (op : Byte) (params : List Byte) : CodecResult := .ok ⟨op, params⟩

/-- A transaction on the codec's ports (R33): the result is delivered. -/
def State.codecReturn (s : State) (r : CodecResult) : Host.Outcome State Fault Refusal := .next (s.deliver (.codec r))

/-- The same for an extension intent, which exists only when EXT_COMMANDS is true (R86). -/
def State.codecReturnExt (s : State) (r : CodecResult) : Host.Outcome State Fault Refusal :=
  if s.config.extCommands then s.codecReturn r else .refused .extensionNotAdmitted

/-- R110. -/
def encSetColumnAddress (start stop : Byte) : CodecResult :=
  if start.toNat > maxColumn ∨ stop.toNat > maxColumn then raise .outOfRange
  else emit opcSetColumnAddress [start, stop]
def execSetColumnAddress (start stop : Byte) (s : State) : Host.Outcome State Fault Refusal :=
  s.codecReturn (encSetColumnAddress start stop)

/-- R111. -/
def encSetRowAddress (start stop : Byte) : CodecResult :=
  if start.toNat > maxRow ∨ stop.toNat > maxRow then raise .outOfRange
  else emit opcSetRowAddress [start, stop]
def execSetRowAddress (start stop : Byte) (s : State) : Host.Outcome State Fault Refusal :=
  s.codecReturn (encSetRowAddress start stop)

/-- R112. -/
def encWriteRam : CodecResult := emit opcWriteRam []
def execWriteRam (s : State) : Host.Outcome State Fault Refusal := s.codecReturn encWriteRam

/-- R113: the encoding only; there is no read-data path (R5). -/
def encReadRam : CodecResult := emit opcReadRam []
def execReadRam (s : State) : Host.Outcome State Fault Refusal := s.codecReturn encReadRam

end Sys2Proof.Machine
end

