-- ==== Sys2Proof/Machine/Geometry.lean ====
section
/-! DEFINITION. Remapping, display geometry and display-mode commands (41_display_geometry_commands.md). -/

namespace Sys2Proof.Machine

open Params Operands

/-- R120: five settings, always jointly as two bytes; cannot fail. -/
def encSetRemapping (axis : Axis) (col nib : Direction) (scan : ScanDirection) (layout : ComLayout) : CodecResult :=
  emit opcSetRemapping [remapP0 axis col nib scan layout, remapP1 layout]
def execSetRemapping (axis : Axis) (col nib : Direction) (scan : ScanDirection) (layout : ComLayout) (s : State) :
    Host.Outcome State Fault Refusal :=
  s.codecReturn (encSetRemapping axis col nib scan layout)

/-- R121. -/
def encSetStartLine (line : Byte) : CodecResult :=
  if line.toNat > maxStartLine then raise .outOfRange else emit opcSetStartLine [line]
def execSetStartLine (line : Byte) (s : State) : Host.Outcome State Fault Refusal :=
  s.codecReturn (encSetStartLine line)

/-- R122. -/
def encSetDisplayOffset (line : Byte) : CodecResult :=
  if line.toNat > maxDisplayOffset then raise .outOfRange else emit opcSetDisplayOffset [line]
def execSetDisplayOffset (line : Byte) (s : State) : Host.Outcome State Fault Refusal :=
  s.codecReturn (encSetDisplayOffset line)

/-- R123, AllOff. -/
def encDisplayAllOff : CodecResult := emit opcDisplayAllOff []
def execDisplayAllOff (s : State) : Host.Outcome State Fault Refusal := s.codecReturn encDisplayAllOff

/-- R123, AllOn. -/
def encDisplayAllOn : CodecResult := emit opcDisplayAllOn []
def execDisplayAllOn (s : State) : Host.Outcome State Fault Refusal := s.codecReturn encDisplayAllOn

/-- R123, Normal. -/
def encDisplayNormal : CodecResult := emit opcDisplayNormal []
def execDisplayNormal (s : State) : Host.Outcome State Fault Refusal := s.codecReturn encDisplayNormal

/-- R123, Inverse. -/
def encDisplayInverse : CodecResult := emit opcDisplayInverse []
def execDisplayInverse (s : State) : Host.Outcome State Fault Refusal := s.codecReturn encDisplayInverse

/-- R124, extension: the one command with an ordering check. -/
def encEnablePartialDisplay (start stop : Byte) : CodecResult :=
  if start.toNat > maxRow ∨ stop.toNat > maxRow ∨ start.toNat > stop.toNat then raise .outOfRange
  else emit opcEnablePartialDisplay [start, stop]
def execEnablePartialDisplay (start stop : Byte) (s : State) : Host.Outcome State Fault Refusal :=
  s.codecReturnExt (encEnablePartialDisplay start stop)

/-- R125. -/
def encDisablePartialDisplay : CodecResult := emit opcDisablePartialDisplay []
def execDisablePartialDisplay (s : State) : Host.Outcome State Fault Refusal :=
  s.codecReturn encDisablePartialDisplay

/-- R126: the range check comes before the subtraction. -/
def encSetMuxRatio (ratio : Byte) : CodecResult :=
  if ratio.toNat < minMux ∨ ratio.toNat > maxMux then raise .outOfRange else emit opcSetMuxRatio [muxByte ratio]
def execSetMuxRatio (ratio : Byte) (s : State) : Host.Outcome State Fault Refusal :=
  s.codecReturn (encSetMuxRatio ratio)

end Sys2Proof.Machine
end

