-- ==== Sys2Proof/Machine/Grayscale.lean ====
section
/-! DEFINITION. Gray-scale table and contrast commands (43_grayscale_and_contrast_commands.md). -/

namespace Sys2Proof.Machine

open Params Operands

/-- R145. -/
def encSetDefaultGrayScaleTable : CodecResult := emit opcSetDefaultGrayScaleTable []
def execSetDefaultGrayScaleTable (s : State) : Host.Outcome State Fault Refusal :=
  s.codecReturn encSetDefaultGrayScaleTable

/-- R146: the one numeric parameter with no range check. -/
def encSetContrastCurrent (c : Byte) : CodecResult := emit opcSetContrastCurrent [c]
def execSetContrastCurrent (c : Byte) (s : State) : Host.Outcome State Fault Refusal :=
  s.codecReturn (encSetContrastCurrent c)

/-- R147. -/
def encSetMasterContrast (c : Byte) : CodecResult :=
  if c.toNat > maxMasterContrast then raise .outOfRange else emit opcSetMasterContrast [c]
def execSetMasterContrast (c : Byte) (s : State) : Host.Outcome State Fault Refusal :=
  s.codecReturn (encSetMasterContrast c)

/-- R148, extension: a zero opcode is a command like any other. -/
def encEnableGrayScaleTable : CodecResult := emit opcEnableGrayScaleTable []
def execEnableGrayScaleTable (s : State) : Host.Outcome State Fault Refusal :=
  s.codecReturnExt encEnableGrayScaleTable

/-- R149, extension: exactly 15 entries, none of them validated. -/
def encSetGrayScaleTable (table : List Byte) : CodecResult :=
  if table.length ≠ gsTableLen then raise .badTableLength else emit opcSetGrayScaleTable table
def execSetGrayScaleTable (table : List Byte) (s : State) : Host.Outcome State Fault Refusal :=
  s.codecReturnExt (encSetGrayScaleTable table)

end Sys2Proof.Machine
end

