-- ==== Sys2Proof/Machine/Power.lean ====
section
/-! DEFINITION. Power, timing, drive-voltage and lock commands (42_power_and_timing_commands.md). -/

namespace Sys2Proof.Machine

open Params Operands

/-- R130. -/
def encFunctionSelect (internalVdd : Bool) : CodecResult := emit opcFunctionSelect [functionSelectByte internalVdd]
def execFunctionSelect (internalVdd : Bool) (s : State) : Host.Outcome State Fault Refusal :=
  s.codecReturn (encFunctionSelect internalVdd)

/-- R131, on = true. -/
def encSleepOn : CodecResult := emit opcSleepOn []
def execSleepOn (s : State) : Host.Outcome State Fault Refusal := s.codecReturn encSleepOn

/-- R131, on = false. -/
def encSleepOff : CodecResult := emit opcSleepOff []
def execSleepOff (s : State) : Host.Outcome State Fault Refusal := s.codecReturn encSleepOff

/-- R132. -/
def encSetPhaseLengths (phase1 phase2 : Byte) : CodecResult :=
  if phase1.toNat < minPhase1 ∨ phase1.toNat > maxPhase1 ∨ phase2.toNat < minPhase2 ∨ phase2.toNat > maxPhase2 then
    raise .outOfRange
  else emit opcSetPhaseLengths [phaseByte phase1 phase2]
def execSetPhaseLengths (phase1 phase2 : Byte) (s : State) : Host.Outcome State Fault Refusal :=
  s.codecReturn (encSetPhaseLengths phase1 phase2)

/-- R133. -/
def encSetClockFoscDivset (fosc divset : Byte) : CodecResult :=
  if fosc.toNat > maxFosc ∨ divset.toNat > maxDivset then raise .outOfRange
  else emit opcSetClockFoscDivset [clockByte fosc divset]
def execSetClockFoscDivset (fosc divset : Byte) (s : State) : Host.Outcome State Fault Refusal :=
  s.codecReturn (encSetClockFoscDivset fosc divset)

/-- R134. -/
def encSetDisplayEnhancements (extVsl enhLowGs : Bool) : CodecResult :=
  emit opcSetDisplayEnhancements [extVslByte extVsl, enhLowGsByte enhLowGs]
def execSetDisplayEnhancements (extVsl enhLowGs : Bool) (s : State) : Host.Outcome State Fault Refusal :=
  s.codecReturn (encSetDisplayEnhancements extVsl enhLowGs)

/-- R135. -/
def encSetSecondPrechargePeriod (period : Byte) : CodecResult :=
  if period.toNat > maxPrecharge2 then raise .outOfRange else emit opcSetSecondPrechargePeriod [period]
def execSetSecondPrechargePeriod (period : Byte) (s : State) : Host.Outcome State Fault Refusal :=
  s.codecReturn (encSetSecondPrechargePeriod period)

/-- R136. -/
def encSetPreChargeVoltage (v : Byte) : CodecResult :=
  if v.toNat > maxPreChargeVoltage then raise .outOfRange else emit opcSetPreChargeVoltage [v]
def execSetPreChargeVoltage (v : Byte) (s : State) : Host.Outcome State Fault Refusal :=
  s.codecReturn (encSetPreChargeVoltage v)

/-- R137. -/
def encSetComDeselectVoltage (v : Byte) : CodecResult :=
  if v.toNat > maxComDeselectVoltage then raise .outOfRange else emit opcSetComDeselectVoltage [v]
def execSetComDeselectVoltage (v : Byte) (s : State) : Host.Outcome State Fault Refusal :=
  s.codecReturn (encSetComDeselectVoltage v)

/-- R138: the block keeps no record of the lock (R214). -/
def encSetCommandLock (lock : Bool) : CodecResult := emit opcSetCommandLock [commandLockByte lock]
def execSetCommandLock (lock : Bool) (s : State) : Host.Outcome State Fault Refusal :=
  s.codecReturn (encSetCommandLock lock)

end Sys2Proof.Machine
end

