-- ==== Sys2Proof/Machine/Codec.lean ====
section
/-! DEFINITION. The Command Codec as one total pure function (30_encoding.md R83), which the session calls, and the
constructors that SetDisplayMode and SetSleepMode select among (R87). -/

namespace Sys2Proof.Machine

/-- `encode(intent)` (R12, R83). -/
def codec : Instr → CodecResult
  | .enableGrayScaleTable => encEnableGrayScaleTable
  | .setColumnAddress start stop => encSetColumnAddress start stop
  | .writeRam => encWriteRam
  | .readRam => encReadRam
  | .setRowAddress start stop => encSetRowAddress start stop
  | .setRemapping axis col nib scan layout => encSetRemapping axis col nib scan layout
  | .setStartLine line => encSetStartLine line
  | .setDisplayOffset line => encSetDisplayOffset line
  | .setDisplayModeAllOff => encDisplayAllOff
  | .setDisplayModeAllOn => encDisplayAllOn
  | .setDisplayModeNormal => encDisplayNormal
  | .setDisplayModeInverse => encDisplayInverse
  | .enablePartialDisplay start stop => encEnablePartialDisplay start stop
  | .disablePartialDisplay => encDisablePartialDisplay
  | .functionSelect internalVdd => encFunctionSelect internalVdd
  | .setSleepModeTrue => encSleepOn
  | .setSleepModeFalse => encSleepOff
  | .setPhaseLengths phase1 phase2 => encSetPhaseLengths phase1 phase2
  | .setClockFoscDivset fosc divset => encSetClockFoscDivset fosc divset
  | .setDisplayEnhancements extVsl enhLowGs => encSetDisplayEnhancements extVsl enhLowGs
  | .setSecondPrechargePeriod period => encSetSecondPrechargePeriod period
  | .setGrayScaleTable table => encSetGrayScaleTable table
  | .setDefaultGrayScaleTable => encSetDefaultGrayScaleTable
  | .setPreChargeVoltage v => encSetPreChargeVoltage v
  | .setComDeselectVoltage v => encSetComDeselectVoltage v
  | .setContrastCurrent c => encSetContrastCurrent c
  | .setMasterContrast c => encSetMasterContrast c
  | .setMuxRatio ratio => encSetMuxRatio ratio
  | .setCommandLock lock => encSetCommandLock lock

/-- SetDisplayMode(mode) (R123). -/
def setDisplayMode : DisplayMode → Instr
  | .allOff => .setDisplayModeAllOff
  | .allOn => .setDisplayModeAllOn
  | .normal => .setDisplayModeNormal
  | .inverse => .setDisplayModeInverse

/-- SetSleepMode(on) (R131). -/
def setSleepMode (on : Bool) : Instr := if on then .setSleepModeTrue else .setSleepModeFalse

end Sys2Proof.Machine
end

