-- ==== Sys2Proof/Machine/Dispatch.lean ====
section
/-! DEFINITION. The one match from a command intent to its meaning. -/

namespace Sys2Proof.Machine

def exec (i : Instr) (s : State) : Host.Outcome State Fault Refusal :=
  match i with
  | .enableGrayScaleTable => Sys2Proof.Machine.execEnableGrayScaleTable s
  | .setColumnAddress start stop => Sys2Proof.Machine.execSetColumnAddress start stop s
  | .writeRam => Sys2Proof.Machine.execWriteRam s
  | .readRam => Sys2Proof.Machine.execReadRam s
  | .setRowAddress start stop => Sys2Proof.Machine.execSetRowAddress start stop s
  | .setRemapping axis col nib scan layout => Sys2Proof.Machine.execSetRemapping axis col nib scan layout s
  | .setStartLine line => Sys2Proof.Machine.execSetStartLine line s
  | .setDisplayOffset line => Sys2Proof.Machine.execSetDisplayOffset line s
  | .setDisplayModeAllOff => Sys2Proof.Machine.execDisplayAllOff s
  | .setDisplayModeAllOn => Sys2Proof.Machine.execDisplayAllOn s
  | .setDisplayModeNormal => Sys2Proof.Machine.execDisplayNormal s
  | .setDisplayModeInverse => Sys2Proof.Machine.execDisplayInverse s
  | .enablePartialDisplay start stop => Sys2Proof.Machine.execEnablePartialDisplay start stop s
  | .disablePartialDisplay => Sys2Proof.Machine.execDisablePartialDisplay s
  | .functionSelect internalVdd => Sys2Proof.Machine.execFunctionSelect internalVdd s
  | .setSleepModeTrue => Sys2Proof.Machine.execSleepOn s
  | .setSleepModeFalse => Sys2Proof.Machine.execSleepOff s
  | .setPhaseLengths phase1 phase2 => Sys2Proof.Machine.execSetPhaseLengths phase1 phase2 s
  | .setClockFoscDivset fosc divset => Sys2Proof.Machine.execSetClockFoscDivset fosc divset s
  | .setDisplayEnhancements extVsl enhLowGs => Sys2Proof.Machine.execSetDisplayEnhancements extVsl enhLowGs s
  | .setSecondPrechargePeriod period => Sys2Proof.Machine.execSetSecondPrechargePeriod period s
  | .setGrayScaleTable table => Sys2Proof.Machine.execSetGrayScaleTable table s
  | .setDefaultGrayScaleTable => Sys2Proof.Machine.execSetDefaultGrayScaleTable s
  | .setPreChargeVoltage v => Sys2Proof.Machine.execSetPreChargeVoltage v s
  | .setComDeselectVoltage v => Sys2Proof.Machine.execSetComDeselectVoltage v s
  | .setContrastCurrent c => Sys2Proof.Machine.execSetContrastCurrent c s
  | .setMasterContrast c => Sys2Proof.Machine.execSetMasterContrast c s
  | .setMuxRatio ratio => Sys2Proof.Machine.execSetMuxRatio ratio s
  | .setCommandLock lock => Sys2Proof.Machine.execSetCommandLock lock s

end Sys2Proof.Machine
end

