-- ==== Sys2Proof/Machine/FrameStore.lean ====
section
/-! DEFINITION. The Frame Store operations (44_frame_store_operations.md): the loads and stores of the block. They are
port transactions, not commands of the codec, and never touch the bus. -/

namespace Sys2Proof.Machine

open Operands

/-- The store a reference names; an operation on no store cannot be presented. -/
def State.onStore (s : State) (k : Nat) (f : FrameStore → Host.Outcome State Fault Refusal) :
    Host.Outcome State Fault Refusal :=
  match s.stores[k]? with
  | some fs => f fs
  | none => .refused .noSuchFrameStore

/-- Construction of a further Frame Store (R34, R8): all zero; the reference is delivered. That each store has legal
dimensions of its own, which need not be the configuration's FB_WIDTH and FB_HEIGHT of R24, is a DESIGN CHOICE: R25 lets
a system hold several stores and does not say (log entry 23). -/
def opConstruct (width height : Nat) (s : State) : Host.Outcome State Fault Refusal :=
  if dimsWf width height then
    .next ((s.addStore (.new width height)).deliver (.frameStore s.stores.length))
  else .refused .illFormedDimensions

/-- `set_pixel` (R155): the bounds test is on the coordinates, before the index; out of bounds it is a silent no-op;
no result either way. -/
def opSetPixel (k x y : Nat) (color : Nibble) (s : State) : Host.Outcome State Fault Refusal :=
  s.onStore k fun f =>
    if f.inBounds x y then
      match f.memRead (byteIndex f.width x y) with
      | some old =>
        match f.memWrite (byteIndex f.width x y) (withNibble old x color) with
        | some f' => .next (s.setStore k f')
        | none => .fault .frameStoreIndex
      | none => .fault .frameStoreIndex
    else .next s

/-- `clear` (R156): one atomic transition over the whole buffer; no result. -/
def opClear (k : Nat) (color : Nibble) (s : State) : Host.Outcome State Fault Refusal :=
  s.onStore k fun f => .next (s.setStore k (f.fill (fillByte color)))

/-- `get_pixel` (R157): no value out of bounds (D15). -/
def opGetPixel (k x y : Nat) (s : State) : Host.Outcome State Fault Refusal :=
  s.onStore k fun f =>
    if f.inBounds x y then
      match f.memRead (byteIndex f.width x y) with
      | some b => .next (s.deliver (.pixel (some (nibbleOf b x))))
      | none => .fault .frameStoreIndex
    else .next (s.deliver (.pixel none))

/-- `dims` (R158). -/
def opDims (k : Nat) (s : State) : Host.Outcome State Fault Refusal :=
  s.onStore k fun f => .next (s.deliver (.dims f.width f.height))

/-- `readout` (R159): the bytes as stored, in index order; the buffer is unchanged. -/
def opReadout (k : Nat) (s : State) : Host.Outcome State Fault Refusal :=
  s.onStore k fun f => .next (s.deliver (.bytes f.readout))

/-- The Frame Store ports (R33). -/
def serveFrameStore (op : FrameStoreOp) (s : State) : Host.Outcome State Fault Refusal :=
  match op with
  | .construct width height => opConstruct width height s
  | .setPixel k x y color => opSetPixel k x y color s
  | .clear k color => opClear k color s
  | .getPixel k x y => opGetPixel k x y s
  | .dims k => opDims k s
  | .readout k => opReadout k s

end Sys2Proof.Machine
end

