-- ==== Sys2Proof/Machine/Session.lean ====
section
/-! DEFINITION. The Controller Session (45_session_sequences.md): the framing of a command on the bus, the fixed
sequences, and the operations with their phase preconditions (R180). A sequence answers a Run; an operation checks its
precondition and ends the sequence with State.finish. -/

namespace Sys2Proof.Machine

open Params

/-! ### Framing -/

/-- The two-phase framing of an encoded command (R171): one opcode byte at the command level, then, if there are any,
exactly the parameter bytes at the data level. -/
def transmit (c : EncodedCommand) (s : State) : Run :=
  ((s.drive .dc dcCommandLevel).tx [c.opcode]).andThen fun s1 =>
    match c.params with
    | [] => .ok s1
    | p :: ps => (s1.drive .dc dcDataLevel).tx (p :: ps)

/-- `send(intent)` (R171): encoding comes before any pin or bus activity (D18). -/
def send (i : Instr) (s : State) : Run :=
  match codec i with
  | .err e => ⟨s, .err e.toKind⟩
  | .ok c => transmit c s

/-- The sends of a list in its order, stopping at the first error (R209, R233). -/
def sendAll : List Instr → State → Run
  | [], s => .ok s
  | i :: is, s => (send i s).andThen (sendAll is)

/-- `write_data` (R172): one transport write at the data level, of any length, also none (D21). -/
def writeData (bytes : List Byte) (s : State) : Run := (s.drive .dc dcDataLevel).tx bytes

/-- `flush_buffer` (R173). -/
def flushBuffer (bytes : List Byte) (s : State) : Run := (send .writeRam s).andThen (writeData bytes)

/-! ### Sequences -/

/-- `hard_reset` (R175): three pin steps, a delay after each (D20, D25), then the phase. -/
def hardReset (s : State) : Run :=
  ((s.drive .res resAssertLevel).delay resetStepMs).andThen fun s1 =>
    ((s1.drive .res resDeassertLevel).delay resetStepMs).andThen fun s2 =>
      ((s2.drive .pwr pwrEnableLevel).delay resetStepMs).andThen fun s3 =>
        .ok (s3.setPhase .reset)

/-- The remapping preset of an orientation (R177, R97). -/
def remapPreset : Orientation → Instr
  | .standard => .setRemapping .horizontal .forward .forward .lastRowFirst .dualProgressive
  | .inverted => .setRemapping .horizontal .reverse .forward .firstRowFirst .dualProgressive

/-- Steps 1 to 19 of `initialize`, in the order the protocol mandates (R176, R233). Step 3 is the standard preset
(D29). -/
def initList (p : InitParams) (inverted : Bool) : List Instr :=
  [.setCommandLock false,
   setSleepMode true,
   remapPreset .standard,
   .setStartLine 0,
   .setDisplayOffset 0,
   setDisplayMode (if inverted then .inverse else .normal),
   .functionSelect true,
   .setPhaseLengths p.phase1 p.phase2,
   .setClockFoscDivset p.fosc p.divset,
   .setDisplayEnhancements true true,
   .setSecondPrechargePeriod p.precharge2,
   .setDefaultGrayScaleTable,
   .setPreChargeVoltage p.vprecharge,
   .setComDeselectVoltage p.vcomh,
   .setContrastCurrent p.contrast,
   .setMasterContrast p.masterContrast,
   .setMuxRatio p.mux,
   .disablePartialDisplay,
   setSleepMode false]

/-- `apply_orientation` (R177): the field is written before the command is encoded or sent. -/
def applyOrientation (o : Orientation) (s : State) : Run := send (remapPreset o) (s.setOrientation o)

/-- `initialize` (R176): hard reset, steps 1 to 19, step 20, then the phase. Its success is the recovery (R211, U3). -/
def initSequence (s : State) : Run :=
  (hardReset s).andThen fun s1 =>
    (sendAll (initList s1.config.init s1.inverted) s1).andThen fun s2 =>
      (applyOrientation s2.orientation s2).andThen fun s3 =>
        .ok ((s3.setPhase .ready).setRecoveryDue false)

/-! ### The address window (R178) -/

/-- `offset = (480 - width + start_x) / 2`. -/
def windowOffset (startX width : Nat) : Nat := (panelPixelWidth - width + startX) / 2
/-- `column_start = offset / 4`. -/
def windowColumnStart (startX width : Nat) : Nat := windowOffset startX width / pixelsPerColumn
/-- `column_end = column_start + width/4 - 1`. -/
def windowColumnEnd (startX width : Nat) : Nat := windowColumnStart startX width + width / pixelsPerColumn - 1
/-- `row_end = start_y + height - 1`. -/
def windowRowEnd (startY height : Nat) : Nat := startY + height - 1

/-- The operands for which the formula has a meaning (R178, D16). -/
def windowDefined (width height : Nat) : Bool := decide (width ≤ panelPixelWidth) && decide (1 ≤ height)

/-- The four computed values lie within the controller's limits (R178). -/
def windowFits (startX startY width height : Nat) : Bool :=
  decide (windowColumnStart startX width ≤ maxColumn) && decide (windowColumnEnd startX width ≤ maxColumn) &&
    decide (startY ≤ maxRow) && decide (windowRowEnd startY height ≤ maxRow)

/-- The column command of a window. -/
def windowColumns (startX width : Nat) : Instr :=
  .setColumnAddress (BitVec.ofNat 8 (windowColumnStart startX width)) (BitVec.ofNat 8 (windowColumnEnd startX width))
/-- The row command of a window. -/
def windowRows (startY height : Nat) : Instr :=
  .setRowAddress (BitVec.ofNat 8 startY) (BitVec.ofNat 8 (windowRowEnd startY height))

/-- `set_address_window` (R178) on operands for which it is defined: the session's check, then the column command, then
the row command (D17). -/
def addressWindow (startX startY width height : Nat) (s : State) : Run :=
  if windowFits startX startY width height then
    (send (windowColumns startX width) s).andThen (send (windowRows startY height))
  else ⟨s, .err .outOfRange⟩

/-- `flush_frame` (R179): window, WriteRam, the whole buffer in one write. -/
def flushFrame (f : FrameStore) (s : State) : Run :=
  (addressWindow 0 0 f.width f.height s).andThen fun s1 =>
    (send .writeRam s1).andThen (writeData f.readout)

/-! ### Operations, with the phase each needs (R180) -/

/-- The operation has no meaning unless `ready` (D22). -/
def State.inReady (s : State) (r : Host.Outcome State Fault Refusal) : Host.Outcome State Fault Refusal :=
  match s.phase with
  | .ready => r
  | .reset => .refused .wrongPhase
  | .uninitialized => .refused .wrongPhase

/-- The send of a caller, where the phase admits one: of any intent but ReadRam, which no session operation sends (R113,
R182; log entry 19). -/
def sendDirect (i : Instr) (s : State) : Host.Outcome State Fault Refusal :=
  if i = .readRam then .refused .readRamNotSent else .next (s.finish (send i s))

/-- `send` used directly: in Ready, or in Reset for a caller building its own initialization (R180); an extension
intent only where EXT_COMMANDS admits it (R86). After a failed or cancelled transport write a hard_reset alone does not
make Reset such a phase: U3 refuses the send until initialize succeeds (R211, R240; log entry 24). -/
def opSend (i : Instr) (s : State) : Host.Outcome State Fault Refusal :=
  if i.admitted s.config.extCommands then
    match s.phase with
    | .ready => sendDirect i s
    | .reset => if s.recoveryDue then .refused .recoveryDue else sendDirect i s
    | .uninitialized => .refused .wrongPhase
  else .refused .extensionNotAdmitted

def opWriteData (bytes : List Byte) (s : State) : Host.Outcome State Fault Refusal :=
  s.inReady (.next (s.finish (writeData bytes s)))

def opFlushBuffer (bytes : List Byte) (s : State) : Host.Outcome State Fault Refusal :=
  s.inReady (.next (s.finish (flushBuffer bytes s)))

/-- Any phase. -/
def opHardReset (s : State) : Host.Outcome State Fault Refusal := .next (s.finish (hardReset s))

/-- Any phase: it is also the recovery (R211). -/
def opInitialize (s : State) : Host.Outcome State Fault Refusal := .next (s.finish (initSequence s))

def opSetOrientation (o : Orientation) (s : State) : Host.Outcome State Fault Refusal :=
  s.inReady (.next (s.finish (applyOrientation o s)))

def opSetAddressWindow (startX startY width height : Nat) (s : State) : Host.Outcome State Fault Refusal :=
  s.inReady
    (if windowDefined width height then .next (s.finish (addressWindow startX startY width height s))
     else .refused .windowOutsideFormula)

def opFlushFrame (k : Nat) (s : State) : Host.Outcome State Fault Refusal :=
  s.inReady
    (s.onStore k fun f =>
      if windowDefined f.width f.height then .next (s.finish (flushFrame f s))
      else .refused .windowOutsideFormula)

/-- The session port (R33). -/
def serveSession (op : SessionOp) (s : State) : Host.Outcome State Fault Refusal :=
  match op with
  | .send i => opSend i s
  | .writeData bytes => opWriteData bytes s
  | .flushBuffer bytes => opFlushBuffer bytes s
  | .hardReset => opHardReset s
  | .initializeSession => opInitialize s
  | .setOrientation o => opSetOrientation o s
  | .setAddressWindow startX startY width height => opSetAddressWindow startX startY width height s
  | .flushFrame k => opFlushFrame k s

end Sys2Proof.Machine
end

