-- ==== Sys2Proof/Machine/Serve.lean ====
section
/-! DEFINITION. Serving one transaction of a port (10_state.md R33), and presenting one intent. -/

namespace Sys2Proof.Machine

/-- One transaction, atomic (R6, R33). -/
def serve (r : Request) (s : State) : Host.Outcome State Fault Refusal :=
  match r with
  | .encode i => exec i s
  | .frameStore op => serveFrameStore op s
  | .session op => serveSession op s

/-- The caller presents an intent on codec.intent, ahead of what is queued. -/
def State.present (s : State) (i : Instr) : State := { s with requests := .encode i :: s.requests }

/-- The machine with EXT_COMMANDS set true if the intent exists only then (R86). -/
def State.admitting (s : State) (i : Instr) : State :=
  { s with config := { s.config with extCommands := s.config.extCommands || i.isExtension } }

end Sys2Proof.Machine
end

