-- ==== Sys2Proof/Machine/Step.lean ====
section
/-! DEFINITION. The step: the next transaction the caller has presented. -/

namespace Sys2Proof.Machine

/-- One step: the oldest transaction is taken off the queue and served (R6, R21, R66). With none presented the block
waits for its caller and nothing changes (R245; log entry 5). -/
def step (s : State) : Host.Outcome State Fault Refusal :=
  match s.requests with
  | [] => .next s
  | r :: rest => serve r (s.setRequests rest)

/-- `s` with the intent of a table word presented as the next transaction, EXT_COMMANDS admitting it if it is an
extension command. A word that is no encoded command presents nothing (R93: there is no raw-opcode input). -/
def State.withFetchWord (s : State) (nbits w : Nat) : State :=
  match decodeTableWord nbits w with
  | some i => (s.admitting i).present i
  | none => s

end Sys2Proof.Machine
end

