-- ==== Sys2Proof/Safety.lean ====
section
/-! DEFINITION. What counts as a safe state of the block and a well-formed record of the bus, in the terms the claims
use: the Frame Store invariants (10_state.md R25), the discipline of the bus (45_session_sequences.md R171, R182;
70_reset_and_hazards.md R236), and the notation of bus traces (30_encoding.md R96). -/

namespace Sys2Proof.Machine

/-! ### Bus traces in the notation of R96 -/

/-- `C:op`: the DC pin to the command level (low), then a write of the one byte. -/
def busC (op : Byte) : List BusEvent := [.pin .dc .low, .tx (.driven .low) [op]]

/-- `D:bytes`: the DC pin to the data level (high), then one write of all the bytes. -/
def busD (bytes : List Byte) : List BusEvent := [.pin .dc .high, .tx (.driven .high) bytes]

/-- `C:op D:params`, or `C:op` alone for a command without parameters. -/
def busCommand (op : Byte) (params : List Byte) : List BusEvent :=
  match params with
  | [] => busC op
  | p :: ps => busC op ++ busD (p :: ps)

/-! ### The codec's answers -/

/-- The next state with exactly one codec result more; every other part of the state is as in `s`. -/
def answers (s : State) (r : CodecResult) : Host.Outcome State Fault Refusal :=
  .next { s with results := s.results ++ [.codec r] }

/-- The conditions of R201's table, one line per row; a command the table does not list has none. -/
def OutOfRangeCause : Instr → Prop
  | .setColumnAddress start stop => start.toNat > 119 ∨ stop.toNat > 119
  | .setRowAddress start stop => start.toNat > 127 ∨ stop.toNat > 127
  | .setStartLine line => line.toNat > 127
  | .setDisplayOffset line => line.toNat > 127
  | .setMuxRatio ratio => ratio.toNat < 16 ∨ ratio.toNat > 128
  | .setPhaseLengths phase1 phase2 =>
    phase1.toNat < 5 ∨ phase1.toNat > 31 ∨ phase2.toNat < 3 ∨ phase2.toNat > 15
  | .setClockFoscDivset fosc divset => fosc.toNat > 15 ∨ divset.toNat > 10
  | .setSecondPrechargePeriod period => period.toNat > 15
  | .setPreChargeVoltage v => v.toNat > 31
  | .setComDeselectVoltage v => v.toNat > 7
  | .setMasterContrast c => c.toNat > 15
  | .enablePartialDisplay start stop => start.toNat > 127 ∨ stop.toNat > 127 ∨ start.toNat > stop.toNat
  | .enableGrayScaleTable => False
  | .writeRam => False
  | .readRam => False
  | .setRemapping _ _ _ _ _ => False
  | .setDisplayModeAllOff => False
  | .setDisplayModeAllOn => False
  | .setDisplayModeNormal => False
  | .setDisplayModeInverse => False
  | .disablePartialDisplay => False
  | .functionSelect _ => False
  | .setSleepModeTrue => False
  | .setSleepModeFalse => False
  | .setDisplayEnhancements _ _ => False
  | .setGrayScaleTable _ => False
  | .setDefaultGrayScaleTable => False
  | .setContrastCurrent _ => False
  | .setCommandLock _ => False

/-! ### The opcode bytes (R85, R86) -/

/-- The 26 opcode bytes of the core command set. -/
def coreOpcodes : List Byte :=
  [0x15, 0x5C, 0x5D, 0x75, 0xA0, 0xA1, 0xA2, 0xA4, 0xA5, 0xA6, 0xA7, 0xA9, 0xAB, 0xAE, 0xAF, 0xB1, 0xB3, 0xB4, 0xB6,
   0xB9, 0xBB, 0xBE, 0xC1, 0xC7, 0xCA, 0xFD]

/-- The three opcode bytes of the extension command set. -/
def extensionOpcodes : List Byte := [0x00, 0xA8, 0xB8]

/-- The byte is an opcode of a machine with this EXT_COMMANDS. -/
def IsOpcode (ext : Bool) (op : Byte) : Prop := op ∈ coreOpcodes ∨ (ext = true ∧ op ∈ extensionOpcodes)

/-- The byte is an opcode a session may send: any but that of ReadRam (R113, R182). -/
def IsSentOpcode (ext : Bool) (op : Byte) : Prop := IsOpcode ext op ∧ op ≠ 0x5D

/-! ### The record of the bus -/

/-- Every transport write stands right after the DC request it needs and carries that level (R236, R13). -/
def BusDisciplined (tr : List BusEvent) : Prop :=
  ∀ before dc bytes after, tr = before ++ .tx dc bytes :: after →
    ∃ before' l, before = before' ++ [.pin .dc l] ∧ dc = .driven l

/-- Every write at the command level is the one opcode byte of a command of the tables, never that of ReadRam (R171,
R182). -/
def CommandWritesLegal (ext : Bool) (tr : List BusEvent) : Prop :=
  ∀ bytes, .tx (.driven .low) bytes ∈ tr → ∃ op, bytes = [op] ∧ IsSentOpcode ext op

/-- The level a trace last requests of a pin, from a level already requested. -/
def lastLevelFrom (p : Pin) (l : LastLevel) : List BusEvent → LastLevel
  | [] => l
  | .pin q v :: tr => lastLevelFrom p (if q = p then .driven v else l) tr
  | .delay _ :: tr => lastLevelFrom p l tr
  | .tx _ _ :: tr => lastLevelFrom p l tr

/-- The pin fields hold the levels the trace last requests (R13, R34). -/
def State.PinsAgree (s : State) : Prop := ∀ p, s.pin p = lastLevelFrom p .unknown s.trace

/-! ### Frame Stores -/

/-- Every Frame Store is legal: even width, canonical memory, no byte outside the buffer (R8, R25). -/
def State.StoresWf (s : State) : Prop := ∀ f ∈ s.stores, f.wf

/-- The 4-bit value of pixel (x, y) of store `k`, by the map of R52 and R53; none out of bounds. -/
def State.pixel (s : State) (k x y : Nat) : Option Nibble :=
  match s.stores[k]? with
  | some f =>
    if x < f.width ∧ y < f.height then
      (f.memRead ((y * f.width + x) / 2)).map
        fun b => if x % 2 = 0 then b.extractLsb' 4 4 else b.extractLsb' 0 4
    else none
  | none => none

/-! ### Session operations -/

/-- The session is Ready only with no recovery due (U3, R210). -/
def State.ReadyRecovered (s : State) : Prop := s.phase = .ready → s.recoveryDue = false


/-- The phase a session operation leaves when it succeeds (R180). -/
def SessionOp.successPhase (p : Phase) : SessionOp → Phase
  | .hardReset => .reset
  | .initializeSession => .ready
  | .send _ => p
  | .writeData _ => p
  | .flushBuffer _ => p
  | .setOrientation _ => p
  | .setAddressWindow _ _ _ _ => p
  | .flushFrame _ => p

/-! ### Results -/

/-- A result the taxonomy allows on a machine with this EXT_COMMANDS: never PinFailure (R204); BadTableLength, and an
encoded command of more than 2 parameter bytes, only with the extensions (R202, R86); an emitted opcode is one of the
tables (R93). -/
def Result.Legal (ext : Bool) : Result → Prop
  | .codec (.ok c) => IsOpcode ext c.opcode ∧ (c.params.length ≤ 2 ∨ (ext = true ∧ c.params.length = 15))
  | .codec (.err .outOfRange) => True
  | .codec (.err .badTableLength) => ext = true
  | .session .ok => True
  | .session (.err .outOfRange) => True
  | .session (.err .badTableLength) => ext = true
  | .session (.err (.communicationFailure _)) => True
  | .session (.err .pinFailure) => False
  | .pixel _ => True
  | .dims _ _ => True
  | .bytes _ => True
  | .frameStore _ => True

/-- Every result delivered is legal. -/
def State.ResultsLegal (s : State) : Prop := ∀ r ∈ s.results, r.Legal s.config.extCommands

end Sys2Proof.Machine
end

