-- ==== Sys2Proof/Certificates/Slice0/Obligations.lean ====
section
/-! DEFINITION. The statements for the provers. Each docstring names the rules of spec/ it formalises; opcode bytes other
than 0x15 and 0xCA, packed bit positions and three limits come to the spec from general knowledge (93 GK1 to GK7; log
entries 1 and 2), and a statement that names such a value is a statement about the spec's value. Throughout, the queue
of requests is log entry 5, the queues of replies (no reply queued means Ok) log entry 6, one step for one whole
operation log entry 9, and the levels of DC and PWR are the spec's decisions D26 and D25 (log entry 2). -/

open Sys2Proof Sys2Proof.Machine

/-! ### The Command Codec: every intent completes, with this result and nothing else changed -/

/-- R110, whole. -/
def Obligations.SetColumnAddressResult : Prop :=
  ∀ (start stop : Byte) (s : State),
    exec (.setColumnAddress start stop) s =
      answers s (if start.toNat ≤ 119 ∧ stop.toNat ≤ 119 then .ok ⟨0x15, [start, stop]⟩ else .err .outOfRange)

/-- SetRowAddress (40 R111); no order check is D13, opcode GK1. -/
def Obligations.SetRowAddressResult : Prop :=
  ∀ (start stop : Byte) (s : State),
    exec (.setRowAddress start stop) s =
      answers s (if start.toNat ≤ 127 ∧ stop.toNat ≤ 127 then .ok ⟨0x75, [start, stop]⟩ else .err .outOfRange)

/-- WriteRam and ReadRam (40); opcodes GK1. -/
def Obligations.RamCommandsResult : Prop :=
  ∀ s : State, exec .writeRam s = answers s (.ok ⟨0x5C, []⟩) ∧ exec .readRam s = answers s (.ok ⟨0x5D, []⟩)

/-- SetRemapping (41), the two bytes as sums of their fields; opcode GK1, layout GK2. -/
def Obligations.SetRemappingResult : Prop :=
  ∀ (axis : Axis) (col nib : Direction) (scan : ScanDirection) (layout : ComLayout) (s : State),
    ∃ p0 p1 : Byte,
      exec (.setRemapping axis col nib scan layout) s = answers s (.ok ⟨0xA0, [p0, p1]⟩) ∧
      p0.toNat = (if axis = .vertical then 1 else 0) + (if col = .reverse then 2 else 0) +
        (if nib = .forward then 4 else 0) + (if scan = .lastRowFirst then 16 else 0) +
        (if layout = .interlaced then 32 else 0) ∧
      p1.toNat = (if layout = .dualProgressive then 17 else 1)

/-- SetStartLine and SetDisplayOffset (41); opcodes GK1, limits GK4 (D11). -/
def Obligations.LineCommandsResult : Prop :=
  ∀ (line : Byte) (s : State),
    exec (.setStartLine line) s = answers s (if line.toNat ≤ 127 then .ok ⟨0xA1, [line]⟩ else .err .outOfRange) ∧
    exec (.setDisplayOffset line) s = answers s (if line.toNat ≤ 127 then .ok ⟨0xA2, [line]⟩ else .err .outOfRange)

/-- SetDisplayMode, its four selector values (41); opcodes GK1. -/
def Obligations.SetDisplayModeResult : Prop :=
  ∀ s : State,
    exec .setDisplayModeAllOff s = answers s (.ok ⟨0xA4, []⟩) ∧
    exec .setDisplayModeAllOn s = answers s (.ok ⟨0xA5, []⟩) ∧
    exec .setDisplayModeNormal s = answers s (.ok ⟨0xA6, []⟩) ∧
    exec .setDisplayModeInverse s = answers s (.ok ⟨0xA7, []⟩)

/-- DisablePartialDisplay (41) and SetDefaultGrayScaleTable (43); opcodes GK1. -/
def Obligations.PartialOffAndDefaultTableResult : Prop :=
  ∀ s : State,
    exec .disablePartialDisplay s = answers s (.ok ⟨0xA9, []⟩) ∧
    exec .setDefaultGrayScaleTable s = answers s (.ok ⟨0xB9, []⟩)

/-- R126, whole. -/
def Obligations.SetMuxRatioResult : Prop :=
  ∀ (ratio : Byte) (s : State),
    exec (.setMuxRatio ratio) s =
      answers s (if 16 ≤ ratio.toNat ∧ ratio.toNat ≤ 128 then .ok ⟨0xCA, [BitVec.ofNat 8 (ratio.toNat - 1)]⟩
        else .err .outOfRange)

/-- FunctionSelect, SetDisplayEnhancements and SetCommandLock (42); opcodes GK1, bytes GK3. -/
def Obligations.BooleanCommandsResult : Prop :=
  ∀ (a b : Bool) (s : State),
    exec (.functionSelect a) s = answers s (.ok ⟨0xAB, [if a then 0x01 else 0x00]⟩) ∧
    exec (.setDisplayEnhancements a b) s =
      answers s (.ok ⟨0xB4, [if a then 0xA0 else 0xA2, if b then 0xFD else 0xB5]⟩) ∧
    exec (.setCommandLock a) s = answers s (.ok ⟨0xFD, [if a then 0x16 else 0x12]⟩)

/-- SetSleepMode, its two selector values (42); opcodes GK1. -/
def Obligations.SetSleepModeResult : Prop :=
  ∀ s : State,
    exec .setSleepModeTrue s = answers s (.ok ⟨0xAE, []⟩) ∧ exec .setSleepModeFalse s = answers s (.ok ⟨0xAF, []⟩)

/-- SetPhaseLengths (42, R90's formula); opcode GK1, nibble placement GK3. -/
def Obligations.SetPhaseLengthsResult : Prop :=
  ∀ (phase1 phase2 : Byte) (s : State),
    exec (.setPhaseLengths phase1 phase2) s =
      answers s (if 5 ≤ phase1.toNat ∧ phase1.toNat ≤ 31 ∧ 3 ≤ phase2.toNat ∧ phase2.toNat ≤ 15 then
        .ok ⟨0xB1, [BitVec.ofNat 8 ((phase1.toNat - 1) / 2 + 16 * phase2.toNat)]⟩ else .err .outOfRange)

/-- SetClockFoscDivset (42); opcode GK1, nibble placement GK3. -/
def Obligations.SetClockFoscDivsetResult : Prop :=
  ∀ (fosc divset : Byte) (s : State),
    exec (.setClockFoscDivset fosc divset) s =
      answers s (if fosc.toNat ≤ 15 ∧ divset.toNat ≤ 10 then
        .ok ⟨0xB3, [BitVec.ofNat 8 (16 * fosc.toNat + divset.toNat)]⟩ else .err .outOfRange)

/-- SetSecondPrechargePeriod, SetPreChargeVoltage, SetComDeselectVoltage (42); opcodes GK1, first limit GK4. -/
def Obligations.PrechargeAndVoltageResult : Prop :=
  ∀ (v : Byte) (s : State),
    exec (.setSecondPrechargePeriod v) s =
      answers s (if v.toNat ≤ 15 then .ok ⟨0xB6, [v]⟩ else .err .outOfRange) ∧
    exec (.setPreChargeVoltage v) s = answers s (if v.toNat ≤ 31 then .ok ⟨0xBB, [v]⟩ else .err .outOfRange) ∧
    exec (.setComDeselectVoltage v) s = answers s (if v.toNat ≤ 7 then .ok ⟨0xBE, [v]⟩ else .err .outOfRange)

/-- SetContrastCurrent and SetMasterContrast (43); opcodes GK1. -/
def Obligations.ContrastResult : Prop :=
  ∀ (c : Byte) (s : State),
    exec (.setContrastCurrent c) s = answers s (.ok ⟨0xC1, [c]⟩) ∧
    exec (.setMasterContrast c) s = answers s (if c.toNat ≤ 15 then .ok ⟨0xC7, [c]⟩ else .err .outOfRange)

/-- The three extension commands with EXT_COMMANDS true (41, 43); GK7 whole. -/
def Obligations.ExtensionCommandsResult : Prop :=
  ∀ (start stop : Byte) (table : List Byte) (s : State), s.config.extCommands = true →
    exec .enableGrayScaleTable s = answers s (.ok ⟨0x00, []⟩) ∧
    exec (.enablePartialDisplay start stop) s =
      answers s (if start.toNat ≤ stop.toNat ∧ stop.toNat ≤ 127 then .ok ⟨0xA8, [start, stop]⟩
        else .err .outOfRange) ∧
    exec (.setGrayScaleTable table) s =
      answers s (if table.length = 15 then .ok ⟨0xB8, table⟩ else .err .badTableLength)

/-- The three extension commands with EXT_COMMANDS false (R86, D19): the constructors do not exist, so they are
refused (log entry 10). -/
def Obligations.ExtensionCommandsAbsent : Prop :=
  ∀ (start stop : Byte) (table : List Byte) (s : State), s.config.extCommands = false →
    exec .enableGrayScaleTable s = .refused .extensionNotAdmitted ∧
    exec (.enablePartialDisplay start stop) s = .refused .extensionNotAdmitted ∧
    exec (.setGrayScaleTable table) s = .refused .extensionNotAdmitted

/-! ### The Command Codec as a whole -/

/-- The frame of all 29 instructions (R21, R22, R50, R68): the codec has no side effect. Every field but the list of
results is unchanged, every byte of every Frame Store reads as before, and exactly one codec result is added. -/
def Obligations.ExecFrame : Prop :=
  ∀ (i : Instr) (s t : State), exec i s = .next t →
    (∃ r, t.results = s.results ++ [.codec r]) ∧
    t.config = s.config ∧ t.phase = s.phase ∧ t.recoveryDue = s.recoveryDue ∧ t.orientation = s.orientation ∧
    t.inverted = s.inverted ∧ (∀ p, t.pin p = s.pin p) ∧ t.trace = s.trace ∧ t.requests = s.requests ∧
    t.txReplies = s.txReplies ∧ t.delayReplies = s.delayReplies ∧ t.stores = s.stores ∧
    ∀ k a, t.readByte k a = s.readByte k a

/-- R201, the codec's part: exactly the table's conditions raise OutOfRange; R202: exactly a table of another length
than 15 raises BadTableLength. -/
def Obligations.CodecErrorCauses : Prop :=
  ∀ (i : Instr) (s : State), i.admitted s.config.extCommands = true →
    (exec i s = answers s (.err .outOfRange) ↔ OutOfRangeCause i) ∧
    (exec i s = answers s (.err .badTableLength) ↔ ∃ table, i = .setGrayScaleTable table ∧ table.length ≠ 15)

/-- The codec and the encoder of wire images agree (R80, R81, R83): an intent whose parameters are in range gives
exactly its wire image. -/
def Obligations.ExecReturnsWireImage : Prop :=
  ∀ (i : Instr) (s : State), i.admitted s.config.extCommands = true → i.wf = true →
    ∃ c : EncodedCommand, exec i s = answers s (.ok c) ∧ c.opcode :: c.params = encode i

/-- Decoding an encoded intent gives it back, up to the pair of phase-1 values of R94 (R93; the canonical
choice is D32, log entry 21). -/
def Obligations.DecodeOfEncode : Prop :=
  ∀ (ext : Bool) (i : Instr), i.admitted ext = true → i.wf = true →
    decode ext (encode i) = .instr i.canonical ∧
    (∀ phase1 phase2, i = .setPhaseLengths phase1 phase2 →
      i.canonical = .setPhaseLengths (BitVec.ofNat 8 (2 * ((phase1.toNat - 1) / 2) + 1)) phase2) ∧
    ((∀ phase1 phase2, i ≠ .setPhaseLengths phase1 phase2) → i.canonical = i)

/-- Encoding a decoded command gives back the bytes, and what is decoded is in range, admitted and canonical (R93). -/
def Obligations.EncodeOfDecode : Prop :=
  ∀ (ext : Bool) (bytes : List Byte) (i : Instr), decode ext bytes = .instr i →
    encode i = bytes ∧ i.wf = true ∧ i.admitted ext = true ∧ i.canonical = i

/-- A byte 0 outside the tables of R85 and R86 is refused by name, whatever follows (R93). -/
def Obligations.DecodeRefusesUnknownOpcode : Prop :=
  ∀ (ext : Bool) (op : Byte) (ps : List Byte), ¬ IsOpcode ext op →
    decode ext (op :: ps) = .rejected (.unknownOpcode op)

/-- Words written out from the spec's encodings, one or more per family, decode to what they stand for; four byte
strings outside the images are refused (R93; T-A, T-G, T-P, T-C). -/
def Obligations.DecodeSampleWords : Prop :=
  decode false [0x15, 0x1C, 0x5B] = .instr (.setColumnAddress 28 91) ∧
  decode false [0xA0, 0x14, 0x11] =
    .instr (.setRemapping .horizontal .forward .forward .lastRowFirst .dualProgressive) ∧
  decode false [0xB1, 0x74] = .instr (.setPhaseLengths 9 7) ∧
  decode false [0xC7, 0x0F] = .instr (.setMasterContrast 15) ∧
  decode false [0xCA, 0x7F] = .instr (.setMuxRatio 128) ∧
  decode true [0xA8, 0x10, 0x2F] = .instr (.enablePartialDisplay 16 47) ∧
  decode false [0x15, 0x78, 0x00] = .rejected (.badParameter 0x15) ∧
  decode false [0xA8, 0x10, 0x2F] = .rejected (.unknownOpcode 0xA8) ∧
  decode false [0xB3, 0x0B] = .rejected (.badParameter 0xB3) ∧
  decode false [0x5C, 0x00] = .rejected (.wrongLength 0x5C)

/-- The length of an encoded command is told from byte 0 alone (R84). -/
def Obligations.LengthFromOpcode : Prop :=
  ∀ i j : Instr, i.wf = true → j.wf = true → i.opcode = j.opcode → (encode i).length = (encode j).length

/-- Encoding is injective on valid inputs but for the phase-1 pairs (R94). -/
def Obligations.EncodeInjectiveUpToPhasePairs : Prop :=
  ∀ i j : Instr, i.wf = true → j.wf = true → encode i = encode j →
    i = j ∨ ∃ p q phase2 : Byte, i = .setPhaseLengths p phase2 ∧ j = .setPhaseLengths q phase2 ∧
      (p.toNat - 1) / 2 = (q.toNat - 1) / 2

/-- A step runs the presented intent: it takes it off the caller's queue and is exec of it; with a table word
presented, exec of what the word decodes to, EXT_COMMANDS admitting an extension command; with nothing presented the
block waits (R21, R6; the queue is the model's choice, log entry 5). -/
def Obligations.StepRunsPresentedIntent : Prop :=
  ∀ s : State,
    (∀ i rest, s.requests = .encode i :: rest → step s = exec i { s with requests := rest }) ∧
    (∀ nbits w i, decodeTableWord nbits w = some i →
      step (s.withFetchWord nbits w) =
        exec i { s with config := { s.config with extCommands := s.config.extCommands || i.isExtension } }) ∧
    (s.requests = [] → step s = .next s)

/-! ### Construction -/

/-- R34 (nothing driven and an empty trace are D27 and D21) and R8 (D8): a legal configuration gives the state at
construction, an illegal one is refused (log entry 10); State.reset is the construction with the defaults of D8 and D19
that R7 states. -/
def Obligations.ConstructionState : Prop :=
  (∀ c : Config,
    if c.fbWidth % 2 = 0 ∧ 2 ≤ c.fbWidth ∧ 1 ≤ c.fbHeight then
      ∃ s : State, State.construct c = .next s ∧
        s.config = c ∧
        s.phase = .uninitialized ∧
        s.recoveryDue = false ∧
        s.orientation = c.orientation ∧
        s.inverted = c.inverted ∧
        s.trace = [] ∧
        s.results = [] ∧
        (∀ p, s.pin p = .unknown) ∧
        (∃ f, s.stores = [f] ∧ f.width = c.fbWidth ∧ f.height = c.fbHeight) ∧
        ∀ a, s.readByte 0 a = if a < c.fbWidth * c.fbHeight / 2 then some 0x00 else none
    else State.construct c = .refused .illFormedDimensions) ∧
  (∃ c : Config, State.construct c = .next State.reset ∧ c.fbWidth = 256 ∧ c.fbHeight = 64 ∧ c.extCommands = false)

/-- Every machine that is constructed has a legal configuration and meets every invariant below (R8, R25, R34; U3). -/
def Obligations.ConstructionMeetsInvariants : Prop :=
  ∀ (c : Config) (s : State), State.construct c = .next s →
    s.config.wf = true ∧ s.StoresWf ∧ BusDisciplined s.trace ∧ s.PinsAgree ∧
    CommandWritesLegal s.config.extCommands s.trace ∧ s.ResultsLegal ∧ s.ReadyRecovered

/-! ### The Frame Stores, each named by its place k in the list (log entry 8) -/

/-- R155 (with R52, R53, R56, R58): in bounds exactly the pixel's nibble of exactly one byte is written; out of bounds
nothing at all happens; no result either way. -/
def Obligations.SetPixelResult : Prop :=
  ∀ (s : State) (k x y : Nat) (color : Nibble) (rest : List Request) (f : FrameStore),
    s.requests = .frameStore (.setPixel k x y color) :: rest → s.stores[k]? = some f → f.wf →
    if x < f.width ∧ y < f.height then
      ∃ f' : FrameStore,
        step s = .next { s with requests := rest, stores := s.stores.set k f' } ∧
        f'.width = f.width ∧ f'.height = f.height ∧
        ∀ a, f'.memRead a =
          if a = (y * f.width + x) / 2 then
            (f.memRead a).map fun old =>
              if x % 2 = 0 then color ++ old.extractLsb' 0 4 else old.extractLsb' 4 4 ++ color
          else f.memRead a
    else step s = .next { s with requests := rest }

/-- R156: every byte becomes the color in both nibbles; clearing again with the same color changes nothing. -/
def Obligations.ClearResult : Prop :=
  ∀ (s : State) (k : Nat) (color : Nibble) (rest : List Request) (f : FrameStore),
    s.requests = .frameStore (.clear k color) :: rest → s.stores[k]? = some f →
    ∃ f' : FrameStore,
      step s = .next { s with requests := rest, stores := s.stores.set k f' } ∧
      f'.width = f.width ∧ f'.height = f.height ∧
      (∀ a, f'.memRead a = if a < f.width * f.height / 2 then some (color ++ color) else none) ∧
      ∀ rest', step { s with requests := .frameStore (.clear k color) :: rest', stores := s.stores.set k f' } =
        .next { s with requests := rest', stores := s.stores.set k f' }

/-- R157: the pixel's value in bounds, no value out of bounds (D15, log entry 11); nothing else changes. -/
def Obligations.GetPixelResult : Prop :=
  ∀ (s : State) (k x y : Nat) (rest : List Request) (f : FrameStore),
    s.requests = .frameStore (.getPixel k x y) :: rest → s.stores[k]? = some f → f.wf →
    step s = .next { s with requests := rest, results := s.results ++ [.pixel (s.pixel k x y)] } ∧
    (x < f.width ∧ y < f.height ↔ s.pixel k x y ≠ none)

/-- R158, whole. -/
def Obligations.DimsResult : Prop :=
  ∀ (s : State) (k : Nat) (rest : List Request) (f : FrameStore),
    s.requests = .frameStore (.dims k) :: rest → s.stores[k]? = some f →
    step s = .next { s with requests := rest, results := s.results ++ [.dims f.width f.height] }

/-- R159 and law (f) of R160: FB_LEN bytes, as stored, in index order; the buffer is unchanged. -/
def Obligations.ReadoutResult : Prop :=
  ∀ (s : State) (k : Nat) (rest : List Request) (f : FrameStore),
    s.requests = .frameStore (.readout k) :: rest → s.stores[k]? = some f →
    ∃ bytes : List Byte,
      step s = .next { s with requests := rest, results := s.results ++ [.bytes bytes] } ∧
      bytes.length = f.width * f.height / 2 ∧ ∀ i, bytes[i]? = f.memRead i

/-- Laws (a) and (b) of R160: a pixel reads back as written, and every other pixel of every store reads as before. -/
def Obligations.SetPixelReadsBack : Prop :=
  ∀ (s : State) (k x y : Nat) (color : Nibble) (rest : List Request) (f : FrameStore),
    s.requests = .frameStore (.setPixel k x y color) :: rest → s.stores[k]? = some f → f.wf →
    x < f.width → y < f.height →
    ∃ t, step s = .next t ∧ t.pixel k x y = some color ∧
      ∀ k' x' y', (k', x', y') ≠ (k, x, y) → t.pixel k' x' y' = s.pixel k' x' y'

/-- Law (d) of R160: after a clear every in-bounds pixel of that store reads as the color, every other store as
before. -/
def Obligations.ClearReadsBack : Prop :=
  ∀ (s : State) (k : Nat) (color : Nibble) (rest : List Request) (f : FrameStore),
    s.requests = .frameStore (.clear k color) :: rest → s.stores[k]? = some f → f.wf →
    ∃ t, step s = .next t ∧
      (∀ x y, x < f.width → y < f.height → t.pixel k x y = some color) ∧
      ∀ k' x y, k' ≠ k → t.pixel k' x y = s.pixel k' x y

/-- Law (g) of R160: byte i is its two pixels, the even one in the high nibble. -/
def Obligations.BytePacksTwoPixels : Prop :=
  ∀ (s : State) (k i : Nat) (f : FrameStore), s.stores[k]? = some f → f.wf → i < f.width * f.height / 2 →
    ∃ hi lo : Nibble,
      s.pixel k (2 * i % f.width) (2 * i / f.width) = some hi ∧
      s.pixel k (2 * i % f.width + 1) (2 * i / f.width) = some lo ∧
      s.readByte k i = some (hi ++ lo)

/-- R54 (derived in the spec): with a legal width the map of pixels to nibbles is a bijection, with the stated inverse.
-/
def Obligations.PixelMapBijective : Prop :=
  ∀ w h : Nat, w % 2 = 0 → 2 ≤ w → 1 ≤ h →
    (∀ x y, x < w → y < h → Operands.byteIndex w x y < w * h / 2) ∧
    (∀ x y x' y', x < w → y < h → x' < w → y' < h →
      Operands.byteIndex w x y = Operands.byteIndex w x' y' → x % 2 = x' % 2 → x = x' ∧ y = y') ∧
    (∀ i half, i < w * h / 2 → half < 2 →
      2 * i % w + half < w ∧ 2 * i / w < h ∧ (2 * i % w + half) % 2 = half ∧
      Operands.byteIndex w (2 * i % w + half) (2 * i / w) = i)

/-- R8 (a), (b) (D8) and R34: construction of a Frame Store with legal dimensions gives an all-zero store; illegal
dimensions are refused. The reference delivered is the model's choice (log entry 8), as are
dimensions other than FB_WIDTH x FB_HEIGHT (log entry 23). -/
def Obligations.ConstructFrameStoreResult : Prop :=
  ∀ (s : State) (w h : Nat) (rest : List Request),
    s.requests = .frameStore (.construct w h) :: rest →
    if w % 2 = 0 ∧ 2 ≤ w ∧ 1 ≤ h then
      ∃ f : FrameStore, f.width = w ∧ f.height = h ∧
        (∀ a, f.memRead a = if a < w * h / 2 then some 0x00 else none) ∧
        step s = .next { s with requests := rest, stores := s.stores ++ [f],
                                results := s.results ++ [.frameStore s.stores.length] }
    else step s = .refused .illFormedDimensions

/-- No step faults while every Frame Store is legal: an in-bounds pixel never indexes outside the buffer (R52). -/
def Obligations.StepNeverFaults : Prop :=
  ∀ (s : State) (r : Fault), s.StoresWf → step s ≠ .fault r

/-! ### The Controller Session: what each operation does when the environment answers Ok -/

/-- R175: six events in order (the third delay is D20, the level of PWR D25; log entry 18), phase Reset, Ok; nothing else
changes. -/
def Obligations.HardResetResult : Prop :=
  ∀ (s : State) (rest : List Request),
    s.requests = .session .hardReset :: rest → (∀ r ∈ s.delayReplies.take 3, r = .done) →
    step s = .next { s with
      requests := rest
      phase := .reset
      pinRes := .driven .high
      pinPwr := .driven .high
      trace := s.trace ++ [.pin .res .low, .delay 1, .pin .res .high, .delay 1, .pin .pwr .high, .delay 1]
      delayReplies := s.delayReplies.drop 3
      results := s.results ++ [.session .ok] }

/-- R171: the framing of a valid command sent directly, in Ready or Reset (phases D22, levels D26). Reset suffices only
with no recovery due (U3, log entry 24). ReadRam, which no session operation sends (R113, R182), is refused: see
RefusedOperations. -/
def Obligations.SendResult : Prop :=
  ∀ (s : State) (i : Instr) (rest : List Request),
    s.requests = .session (.send i) :: rest → s.phase = .ready ∨ s.phase = .reset ∧ s.recoveryDue = false →
    i.admitted s.config.extCommands = true → i ≠ .readRam → i.wf = true →
    (∀ r ∈ s.txReplies.take (if i.params = [] then 1 else 2), r = .ok) →
    step s = .next { s with
      requests := rest
      pinDc := if i.params = [] then .driven .low else .driven .high
      trace := s.trace ++ busCommand i.opcode i.params
      txReplies := s.txReplies.drop (if i.params = [] then 1 else 2)
      results := s.results ++ [.session .ok] }

/-- R171, R208, R210: a command the codec rejects returns the codec's error and touches neither bus, pins (D18) nor
phase (D28). Reset suffices only with no recovery due (U3, log entry 24). -/
def Obligations.SendRejectedByCodec : Prop :=
  ∀ (s : State) (i : Instr) (rest : List Request),
    s.requests = .session (.send i) :: rest → s.phase = .ready ∨ s.phase = .reset ∧ s.recoveryDue = false →
    i.admitted s.config.extCommands = true → i.wf = false →
    ∃ e, (e = .outOfRange ∨ e = .badTableLength) ∧
      exec i s = answers s (.err e) ∧
      step s = .next { s with requests := rest, results := s.results ++ [.session (.err e.toKind)] }

/-- R171, R203, R209, R210, R212: a failed opcode write and a failed parameter write return the transport's own error;
a cancelled one returns nothing; the requests made stay on the trace (log entry 13) and the phase is Uninitialized (D28,
D33), from where a recovery is due (U3; of a cancelled write by R181, log entry 24). Carrying the error's value is the
model's choice (log entry 14). ReadRam is refused, as for SendResult. -/
def Obligations.SendTransportStops : Prop :=
  ∀ (s : State) (i : Instr) (rest : List Request) (more : List TxReply),
    s.requests = .session (.send i) :: rest → s.phase = .ready ∨ s.phase = .reset ∧ s.recoveryDue = false →
    i.admitted s.config.extCommands = true → i ≠ .readRam → i.wf = true →
    (∀ e, s.txReplies = .failed e :: more →
      step s = .next { s with
        requests := rest, phase := .uninitialized, recoveryDue := true, pinDc := .driven .low, trace := s.trace ++ busC i.opcode,
        txReplies := more, results := s.results ++ [.session (.err (.communicationFailure e))] }) ∧
    (s.txReplies = .cancelled :: more →
      step s = .next { s with
        requests := rest, phase := .uninitialized, recoveryDue := true, pinDc := .driven .low, trace := s.trace ++ busC i.opcode,
        txReplies := more }) ∧
    (∀ e, i.params ≠ [] → s.txReplies = .ok :: .failed e :: more →
      step s = .next { s with
        requests := rest, phase := .uninitialized, recoveryDue := true, pinDc := .driven .high,
        trace := s.trace ++ busCommand i.opcode i.params,
        txReplies := more, results := s.results ++ [.session (.err (.communicationFailure e))] }) ∧
    (i.params ≠ [] → s.txReplies = .ok :: .cancelled :: more →
      step s = .next { s with
        requests := rest, phase := .uninitialized, recoveryDue := true, pinDc := .driven .high,
        trace := s.trace ++ busCommand i.opcode i.params, txReplies := more })

/-- R172: one write of the whole sequence at the data level (D26), also of no byte (D21); no command, no window. -/
def Obligations.WriteDataResult : Prop :=
  ∀ (s : State) (bytes : List Byte) (rest : List Request),
    s.requests = .session (.writeData bytes) :: rest → s.phase = .ready →
    (∀ r ∈ s.txReplies.take 1, r = .ok) →
    step s = .next { s with
      requests := rest
      pinDc := .driven .high
      trace := s.trace ++ busD bytes
      txReplies := s.txReplies.drop 1
      results := s.results ++ [.session .ok] }

/-- R173: WriteRam (opcode GK1), then the data; the window is not set. Phase Ready is D22. -/
def Obligations.FlushBufferResult : Prop :=
  ∀ (s : State) (bytes : List Byte) (rest : List Request),
    s.requests = .session (.flushBuffer bytes) :: rest → s.phase = .ready →
    (∀ r ∈ s.txReplies.take 2, r = .ok) →
    step s = .next { s with
      requests := rest
      pinDc := .driven .high
      trace := s.trace ++ busC 0x5C ++ busD bytes
      txReplies := s.txReplies.drop 2
      results := s.results ++ [.session .ok] }

/-- R177: the field is updated and one remapping command is sent, whose bytes (GK1, GK2) depend on the orientation
alone, so a round trip restores them. -/
def Obligations.SetOrientationResult : Prop :=
  ∀ (s : State) (o : Orientation) (rest : List Request),
    s.requests = .session (.setOrientation o) :: rest → s.phase = .ready →
    (∀ r ∈ s.txReplies.take 2, r = .ok) →
    step s = .next { s with
      requests := rest
      orientation := o
      pinDc := .driven .high
      trace := s.trace ++ busCommand 0xA0 [if o = .standard then 0x14 else 0x06, 0x11]
      txReplies := s.txReplies.drop 2
      results := s.results ++ [.session .ok] }

/-- R177, R209, R212: the orientation is written before anything is sent, so it stays written at each of the four ends a
transport can give: a failed or cancelled opcode write, a failed or cancelled parameter write. The phase is then
Uninitialized (D28, D33) and a recovery due (U3, log entry 24); the request stays on the trace (log entry 13), a failure returns the transport's own error
(its value carried, log entry 14), a cancellation returns nothing. Opcode GK1, parameters GK2. -/
def Obligations.SetOrientationFailure : Prop :=
  ∀ (s : State) (o : Orientation) (rest : List Request) (more : List TxReply),
    s.requests = .session (.setOrientation o) :: rest → s.phase = .ready →
    (∀ e, s.txReplies = .failed e :: more →
      step s = .next { s with
        requests := rest, orientation := o, phase := .uninitialized, recoveryDue := true, pinDc := .driven .low,
        trace := s.trace ++ busC 0xA0,
        txReplies := more, results := s.results ++ [.session (.err (.communicationFailure e))] }) ∧
    (s.txReplies = .cancelled :: more →
      step s = .next { s with
        requests := rest, orientation := o, phase := .uninitialized, recoveryDue := true, pinDc := .driven .low,
        trace := s.trace ++ busC 0xA0, txReplies := more }) ∧
    (∀ e, s.txReplies = .ok :: .failed e :: more →
      step s = .next { s with
        requests := rest, orientation := o, phase := .uninitialized, recoveryDue := true, pinDc := .driven .high,
        trace := s.trace ++ busCommand 0xA0 [if o = .standard then 0x14 else 0x06, 0x11],
        txReplies := more, results := s.results ++ [.session (.err (.communicationFailure e))] }) ∧
    (s.txReplies = .ok :: .cancelled :: more →
      step s = .next { s with
        requests := rest, orientation := o, phase := .uninitialized, recoveryDue := true, pinDc := .driven .high,
        trace := s.trace ++ busCommand 0xA0 [if o = .standard then 0x14 else 0x06, 0x11],
        txReplies := more })

/-- R178: the formula, the session's check before anything is sent, then the column command and the row command (their
order is D17, log entry 18, the row opcode GK1; natural-number operands and the bounds on width and height are D16). -/
def Obligations.SetAddressWindowResult : Prop :=
  ∀ (s : State) (startX startY width height offset columnStart columnEnd rowEnd : Nat) (rest : List Request),
    s.requests = .session (.setAddressWindow startX startY width height) :: rest → s.phase = .ready →
    width ≤ 480 → 1 ≤ height →
    offset = (480 - width + startX) / 2 → columnStart = offset / 4 → columnEnd = columnStart + width / 4 - 1 →
    rowEnd = startY + height - 1 →
    (∀ r ∈ s.txReplies.take 4, r = .ok) →
    step s =
      if columnStart > 119 ∨ columnEnd > 119 ∨ startY > 127 ∨ rowEnd > 127 then
        .next { s with requests := rest, results := s.results ++ [.session (.err .outOfRange)] }
      else
        .next { s with
          requests := rest
          pinDc := .driven .high
          trace := s.trace ++ busCommand 0x15 [BitVec.ofNat 8 columnStart, BitVec.ofNat 8 columnEnd] ++
            busCommand 0x75 [BitVec.ofNat 8 startY, BitVec.ofNat 8 rowEnd]
          txReplies := s.txReplies.drop 4
          results := s.results ++ [.session .ok] }

/-- R179 (with R8 (d), R60): the window of the whole store, WriteRam, then FB[0], FB[1], ... in one write; a store of
more than 128 rows gives OutOfRange with nothing sent. Opcodes but 0x15 are GK1. -/
def Obligations.FlushFrameResult : Prop :=
  ∀ (s : State) (k columnStart : Nat) (rest : List Request) (f : FrameStore),
    s.requests = .session (.flushFrame k) :: rest → s.phase = .ready → s.stores[k]? = some f → f.wf →
    f.width ≤ 480 → columnStart = (480 - f.width) / 2 / 4 → (∀ r ∈ s.txReplies.take 6, r = .ok) →
    if f.height ≤ 128 then
      ∃ bytes : List Byte, bytes.length = f.width * f.height / 2 ∧ (∀ i, bytes[i]? = f.memRead i) ∧
        step s = .next { s with
          requests := rest
          pinDc := .driven .high
          trace := s.trace ++
            busCommand 0x15 [BitVec.ofNat 8 columnStart, BitVec.ofNat 8 (columnStart + f.width / 4 - 1)] ++
            busCommand 0x75 [0x00, BitVec.ofNat 8 (f.height - 1)] ++ busC 0x5C ++ busD bytes
          txReplies := s.txReplies.drop 6
          results := s.results ++ [.session .ok] }
    else step s = .next { s with requests := rest, results := s.results ++ [.session (.err .outOfRange)] }

/-- R176, R233: with INIT_* values in range (their packing as the codec's, GK3), the six reset events, the twenty
commands in order, phase Ready, no recovery due any more (R211, U3; log entry 24), Ok. Step 3's preset is D29, the third delay D20 (log entry 18); opcodes GK1. -/
def Obligations.InitializeResult : Prop :=
  ∀ (s : State) (rest : List Request),
    s.requests = .session .initializeSession :: rest →
    (∀ r ∈ s.delayReplies.take 3, r = .done) → (∀ r ∈ s.txReplies.take 35, r = .ok) →
    (∀ i ∈ initList s.config.init s.inverted, i.wf = true) →
    step s = .next { s with
      requests := rest
      phase := .ready
      recoveryDue := false
      pinDc := .driven .high
      pinRes := .driven .high
      pinPwr := .driven .high
      trace := s.trace ++ [.pin .res .low, .delay 1, .pin .res .high, .delay 1, .pin .pwr .high, .delay 1] ++
        busCommand 0xFD [0x12] ++ busCommand 0xAE [] ++ busCommand 0xA0 [0x14, 0x11] ++ busCommand 0xA1 [0x00] ++
        busCommand 0xA2 [0x00] ++ busCommand (if s.inverted then 0xA7 else 0xA6) [] ++ busCommand 0xAB [0x01] ++
        busCommand 0xB1 [BitVec.ofNat 8
          ((s.config.init.phase1.toNat - 1) / 2 + 16 * s.config.init.phase2.toNat)] ++
        busCommand 0xB3 [BitVec.ofNat 8 (16 * s.config.init.fosc.toNat + s.config.init.divset.toNat)] ++
        busCommand 0xB4 [0xA0, 0xFD] ++ busCommand 0xB6 [s.config.init.precharge2] ++ busCommand 0xB9 [] ++
        busCommand 0xBB [s.config.init.vprecharge] ++ busCommand 0xBE [s.config.init.vcomh] ++
        busCommand 0xC1 [s.config.init.contrast] ++ busCommand 0xC7 [s.config.init.masterContrast] ++
        busCommand 0xCA [BitVec.ofNat 8 (s.config.init.mux.toNat - 1)] ++ busCommand 0xA9 [] ++
        busCommand 0xAF [] ++ busCommand 0xA0 [if s.orientation = .standard then 0x14 else 0x06, 0x11]
      delayReplies := s.delayReplies.drop 3
      txReplies := s.txReplies.drop 35
      results := s.results ++ [.session .ok] }

/-! ### The Controller Session: errors, phases, refusals -/

/-- R176, R209, R210: with the commands of the list up to the first one out of range all in range, exactly those are
transmitted, after the six reset events (the third delay is D20); nothing of the failing or a later step is. initialize
returns OutOfRange and leaves the phase Uninitialized (D28), when the environment answers Ok. -/
def Obligations.InitializeRejectsBadParameter : Prop :=
  ∀ (s : State) (rest : List Request) (earlier later : List Instr) (bad : Instr) (sent : List BusEvent),
    s.requests = .session .initializeSession :: rest →
    (∀ r ∈ s.delayReplies.take 3, r = .done) → (∀ r ∈ s.txReplies.take 35, r = .ok) →
    initList s.config.init s.inverted = earlier ++ bad :: later →
    (∀ i ∈ earlier, i.wf = true) → bad.wf = false →
    sent = earlier.flatMap (fun i => busCommand i.opcode i.params) →
    step s = .next { s with
      requests := rest
      phase := .uninitialized
      pinDc := lastLevelFrom .dc s.pinDc sent
      pinRes := .driven .high
      pinPwr := .driven .high
      trace := s.trace ++ [.pin .res .low, .delay 1, .pin .res .high, .delay 1, .pin .pwr .high, .delay 1] ++ sent
      delayReplies := s.delayReplies.drop 3
      txReplies := s.txReplies.drop (earlier.map fun i => if i.params = [] then 1 else 2).sum
      results := s.results ++ [.session (.err .outOfRange)] }

/-- R181, R212: hard_reset cancelled at its first, second or third delay ends without a result in phase Uninitialized,
with the events so far (D33; the third delay is D20). No transport write failed, so no recovery becomes due (log entry
24). -/
def Obligations.HardResetCancelled : Prop :=
  ∀ (s : State) (rest : List Request) (done : Nat) (more : List DelayReply),
    s.requests = .session .hardReset :: rest → done < 3 →
    s.delayReplies = List.replicate done .done ++ .cancelled :: more →
    ∃ t, step s = .next t ∧ t.phase = .uninitialized ∧ t.results = s.results ∧ t.delayReplies = more ∧
      t.recoveryDue = s.recoveryDue ∧
      t.trace = s.trace ++
        [BusEvent.pin .res .low, .delay 1, .pin .res .high, .delay 1, .pin .pwr .high, .delay 1].take (2 * done + 2)

/-- R180, R210, R212 (D28, D33; log entry 12): how every session operation may end and the phase it then leaves; and
whether a recovery is due (U3, R211; log entry 24): only a successful initialize ends it. -/
def Obligations.SessionPhaseTable : Prop :=
  ∀ (s t : State) (op : SessionOp) (rest : List Request),
    s.requests = .session op :: rest → step s = .next t →
    (t.results = s.results ++ [.session .ok] ∧ t.phase = op.successPhase s.phase ∧
      t.recoveryDue = if op = .initializeSession then false else s.recoveryDue) ∨
    (∃ e, t.results = s.results ++ [.session (.err (.communicationFailure e))] ∧ t.phase = .uninitialized ∧
      t.recoveryDue = true) ∨
    (∃ e, (e = .outOfRange ∨ e = .badTableLength) ∧ t.results = s.results ++ [.session (.err e)] ∧
      t.phase = (if op = .initializeSession then .uninitialized else s.phase) ∧ t.recoveryDue = s.recoveryDue) ∨
    (t.results = s.results ∧ t.phase = .uninitialized ∧
      (t.recoveryDue = true ∨ t.recoveryDue = s.recoveryDue))

/-- The operations the model refuses: in a phase that does not allow them (R180, D22), a window the formula is not
defined for (R178, D16), an extension intent not admitted (R86, D19; for all of these log entry 10), a reference to no
store, of flush_frame and of every operation on a store (log entry 8); and, after a failed or cancelled transport write,
every session operation but hard_reset and initialize until initialize succeeds (U3, R211, R240; log entry 24), where
ReadyRecovered is the invariant that StepKeepsBusDiscipline states; and a direct send of ReadRam, which no session
operation sends (R113, R182; that it is refused under a name of its own is log entry 19). -/
def Obligations.RefusedOperations : Prop :=
  ∀ (s : State) (rest : List Request),
    (∀ i, s.requests = .session (.send i) :: rest → i.admitted s.config.extCommands = true →
      s.phase = .uninitialized → step s = .refused .wrongPhase) ∧
    (∀ i, s.requests = .session (.send i) :: rest → i.admitted s.config.extCommands = false →
      step s = .refused .extensionNotAdmitted) ∧
    (∀ op, s.requests = .session op :: rest →
      ((∃ bs, op = .writeData bs) ∨ (∃ bs, op = .flushBuffer bs) ∨ (∃ o, op = .setOrientation o) ∨
        (∃ x y w h, op = .setAddressWindow x y w h) ∨ ∃ k, op = .flushFrame k) →
      s.phase ≠ .ready → step s = .refused .wrongPhase) ∧
    (∀ x y w h, s.requests = .session (.setAddressWindow x y w h) :: rest → s.phase = .ready →
      (480 < w ∨ h = 0) → step s = .refused .windowOutsideFormula) ∧
    (∀ k f, s.requests = .session (.flushFrame k) :: rest → s.phase = .ready → s.stores[k]? = some f →
      (480 < f.width ∨ f.height = 0) → step s = .refused .windowOutsideFormula) ∧
    (∀ k, s.requests = .session (.flushFrame k) :: rest → s.phase = .ready → s.stores[k]? = none →
      step s = .refused .noSuchFrameStore) ∧
    (∀ k op, s.requests = .frameStore op :: rest → s.stores[k]? = none →
      ((∃ x y c, op = .setPixel k x y c) ∨ (∃ c, op = .clear k c) ∨ (∃ x y, op = .getPixel k x y) ∨
        op = .dims k ∨ op = .readout k) →
      step s = .refused .noSuchFrameStore) ∧
    (∀ i, s.requests = .session (.send i) :: rest → i.admitted s.config.extCommands = true →
      s.phase = .reset → s.recoveryDue = true → step s = .refused .recoveryDue) ∧
    (∀ op, s.requests = .session op :: rest → s.ReadyRecovered → s.recoveryDue = true →
      op ≠ .hardReset → op ≠ .initializeSession → ∃ r, step s = .refused r) ∧
    (s.requests = .session (.send .readRam) :: rest → s.phase = .ready ∨ s.phase = .reset ∧ s.recoveryDue = false →
      step s = .refused .readRamNotSent)

/-! ### Invariants and whole-machine rules, over every step -/

/-- R25, R8: every step keeps every Frame Store legal: even width, memory in its canonical form, no byte outside the
buffer. -/
def Obligations.StepKeepsStoresWf : Prop :=
  ∀ s t : State, s.StoresWf → step s = .next t → t.StoresWf

/-- R236, R13, R34: every step keeps the bus disciplined, each write right after the DC request it needs and tagged
with that level, keeps the pin fields equal to the levels the trace last requests, and keeps the phase from being
Ready while a recovery is due (U3, R210; log entry 24). -/
def Obligations.StepKeepsBusDiscipline : Prop :=
  ∀ s t : State, step s = .next t →
    (BusDisciplined s.trace → BusDisciplined t.trace) ∧ (s.PinsAgree → t.PinsAgree) ∧
    (s.ReadyRecovered → t.ReadyRecovered)

/-- R171, R182, R113, R93: every step keeps every command-level write on the bus a single opcode byte of the tables,
never the byte of ReadRam. -/
def Obligations.StepKeepsCommandWritesLegal : Prop :=
  ∀ s t : State, CommandWritesLegal s.config.extCommands s.trace → step s = .next t →
    CommandWritesLegal t.config.extCommands t.trace

/-- R204, R202, R86, R93: every step keeps the results within the taxonomy: never PinFailure, BadTableLength and long
commands only with the extensions, opcodes of the tables only. -/
def Obligations.StepKeepsResultsLegal : Prop :=
  ∀ s t : State, s.ResultsLegal → step s = .next t → t.ResultsLegal

/-- R24, R29, R209: no step changes the configuration, `inverted`, or a store's dimensions; the trace and the results
only grow. -/
def Obligations.StepKeepsConstants : Prop :=
  ∀ s t : State, step s = .next t →
    t.config = s.config ∧ t.inverted = s.inverted ∧
    (∃ evs, t.trace = s.trace ++ evs) ∧ (∃ rs, t.results = s.results ++ rs) ∧
    ∀ (k : Nat) (f : FrameStore), s.stores[k]? = some f →
      ∃ f' : FrameStore, t.stores[k]? = some f' ∧ f'.width = f.width ∧ f'.height = f.height

/-- R24, R28, R182, R232: only set_pixel and clear write a byte of an existing Frame Store; only set_orientation writes
the orientation; only session operations touch phase, a recovery due, pins and bus. -/
def Obligations.OnlyTheNamedOperationsWrite : Prop :=
  ∀ (s t : State) (r : Request) (rest : List Request), s.requests = r :: rest → step s = .next t →
    ((∀ k x y c, r ≠ .frameStore (.setPixel k x y c)) → (∀ k c, r ≠ .frameStore (.clear k c)) →
      ∀ k a, k < s.stores.length → t.readByte k a = s.readByte k a) ∧
    ((∀ o, r ≠ .session (.setOrientation o)) → t.orientation = s.orientation) ∧
    ((∀ op, r ≠ .session op) → t.phase = s.phase ∧ t.recoveryDue = s.recoveryDue ∧ (∀ p, t.pin p = s.pin p) ∧
      t.trace = s.trace ∧ t.txReplies = s.txReplies ∧ t.delayReplies = s.delayReplies) ∧
    t.requests = rest
end

