-- ==== Sys2Proof/Laws/State.lean ====
section
/-! SUPPORT. One lemma per field per update of the state, so that no proof unfolds a record update. -/

namespace Sys2Proof.Machine

variable (s : State)

/-! ### setPhase -/

@[simp] theorem State.setPhase_config (p : Phase) : (s.setPhase p).config = s.config := rfl
@[simp] theorem State.setPhase_phase (p : Phase) : (s.setPhase p).phase = p := rfl
@[simp] theorem State.setPhase_recoveryDue (p : Phase) : (s.setPhase p).recoveryDue = s.recoveryDue := rfl
@[simp] theorem State.setPhase_orientation (p : Phase) : (s.setPhase p).orientation = s.orientation := rfl
@[simp] theorem State.setPhase_inverted (p : Phase) : (s.setPhase p).inverted = s.inverted := rfl
@[simp] theorem State.setPhase_pinDc (p : Phase) : (s.setPhase p).pinDc = s.pinDc := rfl
@[simp] theorem State.setPhase_pinRes (p : Phase) : (s.setPhase p).pinRes = s.pinRes := rfl
@[simp] theorem State.setPhase_pinPwr (p : Phase) : (s.setPhase p).pinPwr = s.pinPwr := rfl
@[simp] theorem State.setPhase_stores (p : Phase) : (s.setPhase p).stores = s.stores := rfl
@[simp] theorem State.setPhase_trace (p : Phase) : (s.setPhase p).trace = s.trace := rfl
@[simp] theorem State.setPhase_results (p : Phase) : (s.setPhase p).results = s.results := rfl
@[simp] theorem State.setPhase_requests (p : Phase) : (s.setPhase p).requests = s.requests := rfl
@[simp] theorem State.setPhase_txReplies (p : Phase) : (s.setPhase p).txReplies = s.txReplies := rfl
@[simp] theorem State.setPhase_delayReplies (p : Phase) : (s.setPhase p).delayReplies = s.delayReplies := rfl

/-! ### setRecoveryDue -/

@[simp] theorem State.setRecoveryDue_config (b : Bool) : (s.setRecoveryDue b).config = s.config := rfl
@[simp] theorem State.setRecoveryDue_phase (b : Bool) : (s.setRecoveryDue b).phase = s.phase := rfl
@[simp] theorem State.setRecoveryDue_recoveryDue (b : Bool) : (s.setRecoveryDue b).recoveryDue = b := rfl
@[simp] theorem State.setRecoveryDue_orientation (b : Bool) : (s.setRecoveryDue b).orientation = s.orientation := rfl
@[simp] theorem State.setRecoveryDue_inverted (b : Bool) : (s.setRecoveryDue b).inverted = s.inverted := rfl
@[simp] theorem State.setRecoveryDue_pinDc (b : Bool) : (s.setRecoveryDue b).pinDc = s.pinDc := rfl
@[simp] theorem State.setRecoveryDue_pinRes (b : Bool) : (s.setRecoveryDue b).pinRes = s.pinRes := rfl
@[simp] theorem State.setRecoveryDue_pinPwr (b : Bool) : (s.setRecoveryDue b).pinPwr = s.pinPwr := rfl
@[simp] theorem State.setRecoveryDue_stores (b : Bool) : (s.setRecoveryDue b).stores = s.stores := rfl
@[simp] theorem State.setRecoveryDue_trace (b : Bool) : (s.setRecoveryDue b).trace = s.trace := rfl
@[simp] theorem State.setRecoveryDue_results (b : Bool) : (s.setRecoveryDue b).results = s.results := rfl
@[simp] theorem State.setRecoveryDue_requests (b : Bool) : (s.setRecoveryDue b).requests = s.requests := rfl
@[simp] theorem State.setRecoveryDue_txReplies (b : Bool) : (s.setRecoveryDue b).txReplies = s.txReplies := rfl
@[simp] theorem State.setRecoveryDue_delayReplies (b : Bool) : (s.setRecoveryDue b).delayReplies = s.delayReplies := rfl

/-! ### setOrientation -/

@[simp] theorem State.setOrientation_config (o : Orientation) : (s.setOrientation o).config = s.config := rfl
@[simp] theorem State.setOrientation_phase (o : Orientation) : (s.setOrientation o).phase = s.phase := rfl
@[simp] theorem State.setOrientation_recoveryDue (o : Orientation) : (s.setOrientation o).recoveryDue = s.recoveryDue := rfl
@[simp] theorem State.setOrientation_orientation (o : Orientation) : (s.setOrientation o).orientation = o := rfl
@[simp] theorem State.setOrientation_inverted (o : Orientation) : (s.setOrientation o).inverted = s.inverted := rfl
@[simp] theorem State.setOrientation_pinDc (o : Orientation) : (s.setOrientation o).pinDc = s.pinDc := rfl
@[simp] theorem State.setOrientation_pinRes (o : Orientation) : (s.setOrientation o).pinRes = s.pinRes := rfl
@[simp] theorem State.setOrientation_pinPwr (o : Orientation) : (s.setOrientation o).pinPwr = s.pinPwr := rfl
@[simp] theorem State.setOrientation_stores (o : Orientation) : (s.setOrientation o).stores = s.stores := rfl
@[simp] theorem State.setOrientation_trace (o : Orientation) : (s.setOrientation o).trace = s.trace := rfl
@[simp] theorem State.setOrientation_results (o : Orientation) : (s.setOrientation o).results = s.results := rfl
@[simp] theorem State.setOrientation_requests (o : Orientation) : (s.setOrientation o).requests = s.requests := rfl
@[simp] theorem State.setOrientation_txReplies (o : Orientation) : (s.setOrientation o).txReplies = s.txReplies := rfl
@[simp] theorem State.setOrientation_delayReplies (o : Orientation) : (s.setOrientation o).delayReplies = s.delayReplies := rfl

/-! ### setStore -/

@[simp] theorem State.setStore_config (k : Nat) (f : FrameStore) : (s.setStore k f).config = s.config := rfl
@[simp] theorem State.setStore_phase (k : Nat) (f : FrameStore) : (s.setStore k f).phase = s.phase := rfl
@[simp] theorem State.setStore_recoveryDue (k : Nat) (f : FrameStore) : (s.setStore k f).recoveryDue = s.recoveryDue := rfl
@[simp] theorem State.setStore_orientation (k : Nat) (f : FrameStore) : (s.setStore k f).orientation = s.orientation := rfl
@[simp] theorem State.setStore_inverted (k : Nat) (f : FrameStore) : (s.setStore k f).inverted = s.inverted := rfl
@[simp] theorem State.setStore_pinDc (k : Nat) (f : FrameStore) : (s.setStore k f).pinDc = s.pinDc := rfl
@[simp] theorem State.setStore_pinRes (k : Nat) (f : FrameStore) : (s.setStore k f).pinRes = s.pinRes := rfl
@[simp] theorem State.setStore_pinPwr (k : Nat) (f : FrameStore) : (s.setStore k f).pinPwr = s.pinPwr := rfl
@[simp] theorem State.setStore_stores (k : Nat) (f : FrameStore) : (s.setStore k f).stores = s.stores.set k f := rfl
@[simp] theorem State.setStore_trace (k : Nat) (f : FrameStore) : (s.setStore k f).trace = s.trace := rfl
@[simp] theorem State.setStore_results (k : Nat) (f : FrameStore) : (s.setStore k f).results = s.results := rfl
@[simp] theorem State.setStore_requests (k : Nat) (f : FrameStore) : (s.setStore k f).requests = s.requests := rfl
@[simp] theorem State.setStore_txReplies (k : Nat) (f : FrameStore) : (s.setStore k f).txReplies = s.txReplies := rfl
@[simp] theorem State.setStore_delayReplies (k : Nat) (f : FrameStore) : (s.setStore k f).delayReplies = s.delayReplies := rfl

/-! ### addStore -/

@[simp] theorem State.addStore_config (f : FrameStore) : (s.addStore f).config = s.config := rfl
@[simp] theorem State.addStore_phase (f : FrameStore) : (s.addStore f).phase = s.phase := rfl
@[simp] theorem State.addStore_recoveryDue (f : FrameStore) : (s.addStore f).recoveryDue = s.recoveryDue := rfl
@[simp] theorem State.addStore_orientation (f : FrameStore) : (s.addStore f).orientation = s.orientation := rfl
@[simp] theorem State.addStore_inverted (f : FrameStore) : (s.addStore f).inverted = s.inverted := rfl
@[simp] theorem State.addStore_pinDc (f : FrameStore) : (s.addStore f).pinDc = s.pinDc := rfl
@[simp] theorem State.addStore_pinRes (f : FrameStore) : (s.addStore f).pinRes = s.pinRes := rfl
@[simp] theorem State.addStore_pinPwr (f : FrameStore) : (s.addStore f).pinPwr = s.pinPwr := rfl
@[simp] theorem State.addStore_stores (f : FrameStore) : (s.addStore f).stores = s.stores ++ [f] := rfl
@[simp] theorem State.addStore_trace (f : FrameStore) : (s.addStore f).trace = s.trace := rfl
@[simp] theorem State.addStore_results (f : FrameStore) : (s.addStore f).results = s.results := rfl
@[simp] theorem State.addStore_requests (f : FrameStore) : (s.addStore f).requests = s.requests := rfl
@[simp] theorem State.addStore_txReplies (f : FrameStore) : (s.addStore f).txReplies = s.txReplies := rfl
@[simp] theorem State.addStore_delayReplies (f : FrameStore) : (s.addStore f).delayReplies = s.delayReplies := rfl

/-! ### deliver -/

@[simp] theorem State.deliver_config (r : Result) : (s.deliver r).config = s.config := rfl
@[simp] theorem State.deliver_phase (r : Result) : (s.deliver r).phase = s.phase := rfl
@[simp] theorem State.deliver_recoveryDue (r : Result) : (s.deliver r).recoveryDue = s.recoveryDue := rfl
@[simp] theorem State.deliver_orientation (r : Result) : (s.deliver r).orientation = s.orientation := rfl
@[simp] theorem State.deliver_inverted (r : Result) : (s.deliver r).inverted = s.inverted := rfl
@[simp] theorem State.deliver_pinDc (r : Result) : (s.deliver r).pinDc = s.pinDc := rfl
@[simp] theorem State.deliver_pinRes (r : Result) : (s.deliver r).pinRes = s.pinRes := rfl
@[simp] theorem State.deliver_pinPwr (r : Result) : (s.deliver r).pinPwr = s.pinPwr := rfl
@[simp] theorem State.deliver_stores (r : Result) : (s.deliver r).stores = s.stores := rfl
@[simp] theorem State.deliver_trace (r : Result) : (s.deliver r).trace = s.trace := rfl
@[simp] theorem State.deliver_results (r : Result) : (s.deliver r).results = s.results ++ [r] := rfl
@[simp] theorem State.deliver_requests (r : Result) : (s.deliver r).requests = s.requests := rfl
@[simp] theorem State.deliver_txReplies (r : Result) : (s.deliver r).txReplies = s.txReplies := rfl
@[simp] theorem State.deliver_delayReplies (r : Result) : (s.deliver r).delayReplies = s.delayReplies := rfl

/-! ### setRequests -/

@[simp] theorem State.setRequests_config (rest : List Request) : (s.setRequests rest).config = s.config := rfl
@[simp] theorem State.setRequests_phase (rest : List Request) : (s.setRequests rest).phase = s.phase := rfl
@[simp] theorem State.setRequests_recoveryDue (rest : List Request) : (s.setRequests rest).recoveryDue = s.recoveryDue := rfl
@[simp] theorem State.setRequests_orientation (rest : List Request) : (s.setRequests rest).orientation = s.orientation := rfl
@[simp] theorem State.setRequests_inverted (rest : List Request) : (s.setRequests rest).inverted = s.inverted := rfl
@[simp] theorem State.setRequests_pinDc (rest : List Request) : (s.setRequests rest).pinDc = s.pinDc := rfl
@[simp] theorem State.setRequests_pinRes (rest : List Request) : (s.setRequests rest).pinRes = s.pinRes := rfl
@[simp] theorem State.setRequests_pinPwr (rest : List Request) : (s.setRequests rest).pinPwr = s.pinPwr := rfl
@[simp] theorem State.setRequests_stores (rest : List Request) : (s.setRequests rest).stores = s.stores := rfl
@[simp] theorem State.setRequests_trace (rest : List Request) : (s.setRequests rest).trace = s.trace := rfl
@[simp] theorem State.setRequests_results (rest : List Request) : (s.setRequests rest).results = s.results := rfl
@[simp] theorem State.setRequests_requests (rest : List Request) : (s.setRequests rest).requests = rest := rfl
@[simp] theorem State.setRequests_txReplies (rest : List Request) : (s.setRequests rest).txReplies = s.txReplies := rfl
@[simp] theorem State.setRequests_delayReplies (rest : List Request) : (s.setRequests rest).delayReplies = s.delayReplies := rfl

/-! ### setTxReplies -/

@[simp] theorem State.setTxReplies_config (rest : List TxReply) : (s.setTxReplies rest).config = s.config := rfl
@[simp] theorem State.setTxReplies_phase (rest : List TxReply) : (s.setTxReplies rest).phase = s.phase := rfl
@[simp] theorem State.setTxReplies_recoveryDue (rest : List TxReply) : (s.setTxReplies rest).recoveryDue = s.recoveryDue := rfl
@[simp] theorem State.setTxReplies_orientation (rest : List TxReply) : (s.setTxReplies rest).orientation = s.orientation := rfl
@[simp] theorem State.setTxReplies_inverted (rest : List TxReply) : (s.setTxReplies rest).inverted = s.inverted := rfl
@[simp] theorem State.setTxReplies_pinDc (rest : List TxReply) : (s.setTxReplies rest).pinDc = s.pinDc := rfl
@[simp] theorem State.setTxReplies_pinRes (rest : List TxReply) : (s.setTxReplies rest).pinRes = s.pinRes := rfl
@[simp] theorem State.setTxReplies_pinPwr (rest : List TxReply) : (s.setTxReplies rest).pinPwr = s.pinPwr := rfl
@[simp] theorem State.setTxReplies_stores (rest : List TxReply) : (s.setTxReplies rest).stores = s.stores := rfl
@[simp] theorem State.setTxReplies_trace (rest : List TxReply) : (s.setTxReplies rest).trace = s.trace := rfl
@[simp] theorem State.setTxReplies_results (rest : List TxReply) : (s.setTxReplies rest).results = s.results := rfl
@[simp] theorem State.setTxReplies_requests (rest : List TxReply) : (s.setTxReplies rest).requests = s.requests := rfl
@[simp] theorem State.setTxReplies_txReplies (rest : List TxReply) : (s.setTxReplies rest).txReplies = rest := rfl
@[simp] theorem State.setTxReplies_delayReplies (rest : List TxReply) : (s.setTxReplies rest).delayReplies = s.delayReplies := rfl

/-! ### setDelayReplies -/

@[simp] theorem State.setDelayReplies_config (rest : List DelayReply) : (s.setDelayReplies rest).config = s.config := rfl
@[simp] theorem State.setDelayReplies_phase (rest : List DelayReply) : (s.setDelayReplies rest).phase = s.phase := rfl
@[simp] theorem State.setDelayReplies_recoveryDue (rest : List DelayReply) : (s.setDelayReplies rest).recoveryDue = s.recoveryDue := rfl
@[simp] theorem State.setDelayReplies_orientation (rest : List DelayReply) : (s.setDelayReplies rest).orientation = s.orientation := rfl
@[simp] theorem State.setDelayReplies_inverted (rest : List DelayReply) : (s.setDelayReplies rest).inverted = s.inverted := rfl
@[simp] theorem State.setDelayReplies_pinDc (rest : List DelayReply) : (s.setDelayReplies rest).pinDc = s.pinDc := rfl
@[simp] theorem State.setDelayReplies_pinRes (rest : List DelayReply) : (s.setDelayReplies rest).pinRes = s.pinRes := rfl
@[simp] theorem State.setDelayReplies_pinPwr (rest : List DelayReply) : (s.setDelayReplies rest).pinPwr = s.pinPwr := rfl
@[simp] theorem State.setDelayReplies_stores (rest : List DelayReply) : (s.setDelayReplies rest).stores = s.stores := rfl
@[simp] theorem State.setDelayReplies_trace (rest : List DelayReply) : (s.setDelayReplies rest).trace = s.trace := rfl
@[simp] theorem State.setDelayReplies_results (rest : List DelayReply) : (s.setDelayReplies rest).results = s.results := rfl
@[simp] theorem State.setDelayReplies_requests (rest : List DelayReply) : (s.setDelayReplies rest).requests = s.requests := rfl
@[simp] theorem State.setDelayReplies_txReplies (rest : List DelayReply) : (s.setDelayReplies rest).txReplies = s.txReplies := rfl
@[simp] theorem State.setDelayReplies_delayReplies (rest : List DelayReply) : (s.setDelayReplies rest).delayReplies = rest := rfl

/-! ### logEvent -/

@[simp] theorem State.logEvent_config (e : BusEvent) : (s.logEvent e).config = s.config := rfl
@[simp] theorem State.logEvent_phase (e : BusEvent) : (s.logEvent e).phase = s.phase := rfl
@[simp] theorem State.logEvent_recoveryDue (e : BusEvent) : (s.logEvent e).recoveryDue = s.recoveryDue := rfl
@[simp] theorem State.logEvent_orientation (e : BusEvent) : (s.logEvent e).orientation = s.orientation := rfl
@[simp] theorem State.logEvent_inverted (e : BusEvent) : (s.logEvent e).inverted = s.inverted := rfl
@[simp] theorem State.logEvent_pinDc (e : BusEvent) : (s.logEvent e).pinDc = s.pinDc := rfl
@[simp] theorem State.logEvent_pinRes (e : BusEvent) : (s.logEvent e).pinRes = s.pinRes := rfl
@[simp] theorem State.logEvent_pinPwr (e : BusEvent) : (s.logEvent e).pinPwr = s.pinPwr := rfl
@[simp] theorem State.logEvent_stores (e : BusEvent) : (s.logEvent e).stores = s.stores := rfl
@[simp] theorem State.logEvent_trace (e : BusEvent) : (s.logEvent e).trace = s.trace ++ [e] := rfl
@[simp] theorem State.logEvent_results (e : BusEvent) : (s.logEvent e).results = s.results := rfl
@[simp] theorem State.logEvent_requests (e : BusEvent) : (s.logEvent e).requests = s.requests := rfl
@[simp] theorem State.logEvent_txReplies (e : BusEvent) : (s.logEvent e).txReplies = s.txReplies := rfl
@[simp] theorem State.logEvent_delayReplies (e : BusEvent) : (s.logEvent e).delayReplies = s.delayReplies := rfl

/-! ### setPin -/

@[simp] theorem State.setPin_config (p : Pin) (l : Level) : (s.setPin p l).config = s.config := by cases p <;> rfl
@[simp] theorem State.setPin_phase (p : Pin) (l : Level) : (s.setPin p l).phase = s.phase := by cases p <;> rfl
@[simp] theorem State.setPin_recoveryDue (p : Pin) (l : Level) : (s.setPin p l).recoveryDue = s.recoveryDue := by cases p <;> rfl
@[simp] theorem State.setPin_orientation (p : Pin) (l : Level) : (s.setPin p l).orientation = s.orientation := by cases p <;> rfl
@[simp] theorem State.setPin_inverted (p : Pin) (l : Level) : (s.setPin p l).inverted = s.inverted := by cases p <;> rfl
@[simp] theorem State.setPin_stores (p : Pin) (l : Level) : (s.setPin p l).stores = s.stores := by cases p <;> rfl
@[simp] theorem State.setPin_trace (p : Pin) (l : Level) : (s.setPin p l).trace = s.trace := by cases p <;> rfl
@[simp] theorem State.setPin_results (p : Pin) (l : Level) : (s.setPin p l).results = s.results := by cases p <;> rfl
@[simp] theorem State.setPin_requests (p : Pin) (l : Level) : (s.setPin p l).requests = s.requests := by cases p <;> rfl
@[simp] theorem State.setPin_txReplies (p : Pin) (l : Level) : (s.setPin p l).txReplies = s.txReplies := by cases p <;> rfl
@[simp] theorem State.setPin_delayReplies (p : Pin) (l : Level) : (s.setPin p l).delayReplies = s.delayReplies := by cases p <;> rfl
@[simp] theorem State.setPin_pinDc (p : Pin) (l : Level) :
    (s.setPin p l).pinDc = if p = .dc then .driven l else s.pinDc := by cases p <;> rfl
@[simp] theorem State.setPin_pinRes (p : Pin) (l : Level) :
    (s.setPin p l).pinRes = if p = .res then .driven l else s.pinRes := by cases p <;> rfl
@[simp] theorem State.setPin_pinPwr (p : Pin) (l : Level) :
    (s.setPin p l).pinPwr = if p = .pwr then .driven l else s.pinPwr := by cases p <;> rfl

/-- Each pin has one home: a write is seen by a read of the same pin and of no other. -/
theorem State.pin_setPin (p q : Pin) (l : Level) :
    (s.setPin p l).pin q = if q = p then .driven l else s.pin q := by
  cases p <;> cases q <;> rfl

/-! ### drive -/

@[simp] theorem State.drive_config (p : Pin) (l : Level) : (s.drive p l).config = s.config := by cases p <;> rfl
@[simp] theorem State.drive_phase (p : Pin) (l : Level) : (s.drive p l).phase = s.phase := by cases p <;> rfl
@[simp] theorem State.drive_recoveryDue (p : Pin) (l : Level) : (s.drive p l).recoveryDue = s.recoveryDue := by cases p <;> rfl
@[simp] theorem State.drive_orientation (p : Pin) (l : Level) : (s.drive p l).orientation = s.orientation := by cases p <;> rfl
@[simp] theorem State.drive_inverted (p : Pin) (l : Level) : (s.drive p l).inverted = s.inverted := by cases p <;> rfl
@[simp] theorem State.drive_stores (p : Pin) (l : Level) : (s.drive p l).stores = s.stores := by cases p <;> rfl
@[simp] theorem State.drive_results (p : Pin) (l : Level) : (s.drive p l).results = s.results := by cases p <;> rfl
@[simp] theorem State.drive_requests (p : Pin) (l : Level) : (s.drive p l).requests = s.requests := by cases p <;> rfl
@[simp] theorem State.drive_txReplies (p : Pin) (l : Level) : (s.drive p l).txReplies = s.txReplies := by cases p <;> rfl
@[simp] theorem State.drive_delayReplies (p : Pin) (l : Level) : (s.drive p l).delayReplies = s.delayReplies := by cases p <;> rfl
@[simp] theorem State.drive_trace (p : Pin) (l : Level) : (s.drive p l).trace = s.trace ++ [.pin p l] := by
  cases p <;> rfl
@[simp] theorem State.drive_pinDc (p : Pin) (l : Level) :
    (s.drive p l).pinDc = if p = .dc then .driven l else s.pinDc := by cases p <;> rfl
@[simp] theorem State.drive_pinRes (p : Pin) (l : Level) :
    (s.drive p l).pinRes = if p = .res then .driven l else s.pinRes := by cases p <;> rfl
@[simp] theorem State.drive_pinPwr (p : Pin) (l : Level) :
    (s.drive p l).pinPwr = if p = .pwr then .driven l else s.pinPwr := by cases p <;> rfl
theorem State.pin_drive (p q : Pin) (l : Level) :
    (s.drive p l).pin q = if q = p then .driven l else s.pin q := s.pin_setPin p q l

/-! ### present and admitting -/

@[simp] theorem State.present_config (i : Instr) : (s.present i).config = s.config := rfl
@[simp] theorem State.present_phase (i : Instr) : (s.present i).phase = s.phase := rfl
@[simp] theorem State.present_recoveryDue (i : Instr) : (s.present i).recoveryDue = s.recoveryDue := rfl
@[simp] theorem State.present_orientation (i : Instr) : (s.present i).orientation = s.orientation := rfl
@[simp] theorem State.present_inverted (i : Instr) : (s.present i).inverted = s.inverted := rfl
@[simp] theorem State.present_pinDc (i : Instr) : (s.present i).pinDc = s.pinDc := rfl
@[simp] theorem State.present_pinRes (i : Instr) : (s.present i).pinRes = s.pinRes := rfl
@[simp] theorem State.present_pinPwr (i : Instr) : (s.present i).pinPwr = s.pinPwr := rfl
@[simp] theorem State.present_stores (i : Instr) : (s.present i).stores = s.stores := rfl
@[simp] theorem State.present_trace (i : Instr) : (s.present i).trace = s.trace := rfl
@[simp] theorem State.present_results (i : Instr) : (s.present i).results = s.results := rfl
@[simp] theorem State.present_requests (i : Instr) : (s.present i).requests = .encode i :: s.requests := rfl
@[simp] theorem State.present_txReplies (i : Instr) : (s.present i).txReplies = s.txReplies := rfl
@[simp] theorem State.present_delayReplies (i : Instr) : (s.present i).delayReplies = s.delayReplies := rfl
@[simp] theorem State.admitting_phase (i : Instr) : (s.admitting i).phase = s.phase := rfl
@[simp] theorem State.admitting_recoveryDue (i : Instr) : (s.admitting i).recoveryDue = s.recoveryDue := rfl
@[simp] theorem State.admitting_orientation (i : Instr) : (s.admitting i).orientation = s.orientation := rfl
@[simp] theorem State.admitting_inverted (i : Instr) : (s.admitting i).inverted = s.inverted := rfl
@[simp] theorem State.admitting_pinDc (i : Instr) : (s.admitting i).pinDc = s.pinDc := rfl
@[simp] theorem State.admitting_pinRes (i : Instr) : (s.admitting i).pinRes = s.pinRes := rfl
@[simp] theorem State.admitting_pinPwr (i : Instr) : (s.admitting i).pinPwr = s.pinPwr := rfl
@[simp] theorem State.admitting_stores (i : Instr) : (s.admitting i).stores = s.stores := rfl
@[simp] theorem State.admitting_trace (i : Instr) : (s.admitting i).trace = s.trace := rfl
@[simp] theorem State.admitting_results (i : Instr) : (s.admitting i).results = s.results := rfl
@[simp] theorem State.admitting_requests (i : Instr) : (s.admitting i).requests = s.requests := rfl
@[simp] theorem State.admitting_txReplies (i : Instr) : (s.admitting i).txReplies = s.txReplies := rfl
@[simp] theorem State.admitting_delayReplies (i : Instr) : (s.admitting i).delayReplies = s.delayReplies := rfl
@[simp] theorem State.admitting_extCommands (i : Instr) :
    (s.admitting i).config.extCommands = (s.config.extCommands || i.isExtension) := rfl

/-! ### initial -/

variable (c : Config)

@[simp] theorem State.initial_config : (State.initial c).config = c := rfl
@[simp] theorem State.initial_phase : (State.initial c).phase = .uninitialized := rfl
@[simp] theorem State.initial_recoveryDue : (State.initial c).recoveryDue = false := rfl
@[simp] theorem State.initial_orientation : (State.initial c).orientation = c.orientation := rfl
@[simp] theorem State.initial_inverted : (State.initial c).inverted = c.inverted := rfl
@[simp] theorem State.initial_pinDc : (State.initial c).pinDc = .unknown := rfl
@[simp] theorem State.initial_pinRes : (State.initial c).pinRes = .unknown := rfl
@[simp] theorem State.initial_pinPwr : (State.initial c).pinPwr = .unknown := rfl
@[simp] theorem State.initial_stores : (State.initial c).stores = [.new c.fbWidth c.fbHeight] := rfl
@[simp] theorem State.initial_trace : (State.initial c).trace = [] := rfl
@[simp] theorem State.initial_results : (State.initial c).results = [] := rfl
@[simp] theorem State.initial_requests : (State.initial c).requests = [] := rfl
@[simp] theorem State.initial_txReplies : (State.initial c).txReplies = [] := rfl
@[simp] theorem State.initial_delayReplies : (State.initial c).delayReplies = [] := rfl

/-- What construction can do: a legal configuration gives its initial state, an illegal one is refused (R8). -/
theorem State.construct_next {t : State} : State.construct c = .next t ↔ c.wf = true ∧ t = State.initial c := by
  unfold State.construct
  split
  · next h => simp [h, eq_comm]
  · next h => simp [h]

/-- The machine right after reset is a construction. -/
theorem State.reset_constructed : State.construct .default = .next State.reset := rfl

end Sys2Proof.Machine
end

