-- ==== Sys2Proof/Laws/Codec.lean ====
section
/-! SUPPORT. What exec can do, said once: it delivers the codec's result, or refuses an extension intent. -/

namespace Sys2Proof.Machine

/-- The meaning of an intent is the codec's result on the codec's port. -/
theorem exec_eq (i : Instr) (s : State) :
    exec i s = if i.admitted s.config.extCommands = true then .next (s.deliver (.codec (codec i)))
      else .refused .extensionNotAdmitted := by
  cases i <;>
    simp [exec, execEnableGrayScaleTable, execEnablePartialDisplay, execSetGrayScaleTable, State.codecReturnExt,
      State.codecReturn, Instr.admitted, Instr.isExtension, codec] <;> rfl

/-- If exec answers a next state, the intent is admitted and its result was delivered. -/
theorem exec_next {i : Instr} {s t : State} (h : exec i s = .next t) :
    i.admitted s.config.extCommands = true ∧ t = s.deliver (.codec (codec i)) := by
  rw [exec_eq] at h
  split at h
  · next ha => exact ⟨ha, by cases h; rfl⟩
  · cases h

/-- exec never faults. -/
theorem exec_not_fault (i : Instr) (s : State) (f : Fault) : exec i s ≠ .fault f := by
  rw [exec_eq]; split <;> simp

/-- The codec is the wire image behind one check (R81, R83): the encoded command where the parameters are in range, else
the one error of the command. -/
theorem codec_eq (i : Instr) :
    codec i =
      if i.wf = true then .ok ⟨i.opcode, i.params⟩
      else .err (if i.opcode = Params.opcSetGrayScaleTable then .badTableLength else .outOfRange) := by
  cases i <;>
    simp only [codec, encEnableGrayScaleTable, encSetColumnAddress, encWriteRam, encReadRam, encSetRowAddress,
      encSetRemapping, encSetStartLine, encSetDisplayOffset, encDisplayAllOff, encDisplayAllOn, encDisplayNormal,
      encDisplayInverse, encEnablePartialDisplay, encDisablePartialDisplay, encFunctionSelect, encSleepOn,
      encSleepOff, encSetPhaseLengths, encSetClockFoscDivset, encSetDisplayEnhancements,
      encSetSecondPrechargePeriod, encSetGrayScaleTable, encSetDefaultGrayScaleTable, encSetPreChargeVoltage,
      encSetComDeselectVoltage, encSetContrastCurrent, encSetMasterContrast, encSetMuxRatio, encSetCommandLock,
      raise, emit, Params.maxColumn, Params.maxRow, Params.maxStartLine, Params.maxDisplayOffset,
      Params.maxPrecharge2, Params.minMux, Params.maxMux, Params.minPhase1, Params.maxPhase1, Params.minPhase2,
      Params.maxPhase2, Params.maxFosc, Params.maxDivset, Params.maxPreChargeVoltage, Params.maxComDeselectVoltage,
      Params.maxMasterContrast, Params.gsTableLen, Instr.wf, Operands.inRange, Instr.opcode, Instr.params,
      Bool.and_eq_true, decide_eq_true_eq, beq_iff_eq] <;>
    first
    | rfl
    | (split <;> first | rfl | contradiction | (split <;> first | rfl | omega))

end Sys2Proof.Machine
end

