-- ==== Sys2Proof/Laws/Memory.lean ====
section
/-! SUPPORT. Memory: every operation keeps the canonical form, and what a read sees after a write or a fill. -/

namespace Sys2Proof.Machine

theorem Memory.mem_cell {a : Nat} {b : Byte} {c : Host.Cell} (h : c ∈ Memory.cell a b) :
    c = (a, b) ∧ b ≠ Memory.background := by
  unfold Memory.cell at h
  split at h
  · simp at h
  · next hb => exact ⟨by simpa using h, hb⟩

theorem Memory.read_cell_append_same {a : Nat} (b : Byte) {m : Memory} (h : m.read a = Memory.background) :
    Memory.read (Memory.cell a b ++ m) a = b := by
  unfold Memory.cell
  split
  · next hb => rw [List.nil_append, h, hb]
  · simp [Memory.read]

theorem Memory.read_cell_append_other {a a' : Nat} (b : Byte) (m : Memory) (h : a' ≠ a) :
    Memory.read (Memory.cell a b ++ m) a' = Memory.read m a' := by
  have h2 : a ≠ a' := fun e => h e.symm
  unfold Memory.cell
  split <;> simp [Memory.read, h2]

/-- A canonical memory reads as the background below its first address. -/
theorem Memory.read_of_lt_all {m : Memory} {a : Nat} (h : ∀ c ∈ m, a < c.1) :
    m.read a = Memory.background := by
  induction m with
  | nil => rfl
  | cons c m ih =>
    have hc : a < c.1 := h c (by simp)
    have : c.1 ≠ a := by omega
    simp [Memory.read, this, ih fun d hd => h d (by simp [hd])]

/-- Every cell a write leaves is an old one or the written one. -/
theorem Memory.mem_write {m : Memory} {a : Nat} {b : Byte} {c : Host.Cell} (h : c ∈ m.write a b) :
    c ∈ m ∨ (c = (a, b) ∧ b ≠ Memory.background) := by
  induction m with
  | nil => exact .inr (Memory.mem_cell h)
  | cons d m ih =>
    obtain ⟨a', b'⟩ := d
    unfold Memory.write at h
    split at h
    · rcases List.mem_cons.1 h with rfl | h
      · simp
      · rcases ih h with h | h
        · exact .inl (List.mem_cons_of_mem _ h)
        · exact .inr h
    · split at h <;> rcases List.mem_append.1 h with h | h
      · exact .inr (Memory.mem_cell h)
      · simp [h]
      · exact .inr (Memory.mem_cell h)
      · exact .inl h

theorem Memory.cell_append_wf {a : Nat} {b : Byte} {m : Memory} (hm : m.wf) (h : ∀ c ∈ m, a < c.1) :
    Memory.wf (Memory.cell a b ++ m) := by
  unfold Memory.cell
  split
  · simpa using hm
  · next hb =>
    refine ⟨List.pairwise_cons.2 ⟨h, hm.1⟩, fun c hc => ?_⟩
    rcases List.mem_cons.1 hc with rfl | hc
    · exact hb
    · exact hm.2 c hc

/-- A write keeps the canonical form. -/
theorem Memory.write_wf {m : Memory} (h : m.wf) (a : Nat) (b : Byte) : (m.write a b).wf := by
  induction m with
  | nil => simpa [Memory.write] using Memory.cell_append_wf (a := a) (b := b) h (by simp)
  | cons d m ih =>
    obtain ⟨a', b'⟩ := d
    obtain ⟨hp, hb⟩ := h
    rw [List.pairwise_cons] at hp
    have hm : Memory.wf m := ⟨hp.2, fun c hc => hb c (by simp [hc])⟩
    unfold Memory.write
    split
    · next hlt =>
      refine ⟨List.pairwise_cons.2 ⟨fun c hc => ?_, (ih hm).1⟩, fun c hc => ?_⟩
      · rcases Memory.mem_write hc with h | ⟨rfl, -⟩
        · exact hp.1 c h
        · exact hlt
      · rcases List.mem_cons.1 hc with rfl | hc
        · exact hb _ (by simp)
        · exact (ih hm).2 c hc
    · split
      · next he => exact Memory.cell_append_wf hm fun c hc => he ▸ hp.1 c hc
      · next hn he =>
        refine Memory.cell_append_wf ⟨List.pairwise_cons.2 hp, hb⟩ fun c hc => ?_
        rcases List.mem_cons.1 hc with rfl | hc
        · show a < a'; omega
        · have := hp.1 c hc; show a < c.1; simp only at this; omega

/-- A read after a write: the written byte at that address, the old byte at every other. -/
theorem Memory.read_write {m : Memory} (h : m.wf) (a : Nat) (b : Byte) (a' : Nat) :
    (m.write a b).read a' = if a' = a then b else m.read a' := by
  induction m with
  | nil =>
    have hn : Memory.read [] a = Memory.background := rfl
    rw [Memory.write, ← List.append_nil (Memory.cell a b)]
    by_cases ha : a' = a
    · subst ha; simpa using Memory.read_cell_append_same b hn
    · rw [Memory.read_cell_append_other b [] ha, if_neg ha]
  | cons d m ih =>
    obtain ⟨x, y⟩ := d
    obtain ⟨hp, hb⟩ := h
    rw [List.pairwise_cons] at hp
    have hm : Memory.wf m := ⟨hp.2, fun c hc => hb c (by simp [hc])⟩
    unfold Memory.write
    split
    · next hlt =>
      have hne : x ≠ a := by omega
      by_cases hx : x = a'
      · subst hx; simp [Memory.read, hne]
      · simp [Memory.read, hx, ih hm]
    · split
      · next he =>
        subst he
        have hbg : Memory.read m x = Memory.background := Memory.read_of_lt_all hp.1
        by_cases ha : a' = x
        · subst ha; rw [Memory.read_cell_append_same b hbg, if_pos rfl]
        · have ha2 : x ≠ a' := fun h => ha h.symm
          rw [Memory.read_cell_append_other b m ha, if_neg ha]
          simp [Memory.read, ha2]
      · next hn he =>
        have hbg : Memory.read ((x, y) :: m) a = Memory.background := by
          refine Memory.read_of_lt_all fun c hc => ?_
          rcases List.mem_cons.1 hc with rfl | hc
          · show a < x; omega
          · have := hp.1 c hc; simp only at this; omega
        by_cases ha : a' = a
        · subst ha; rw [Memory.read_cell_append_same b hbg, if_pos rfl]
        · rw [Memory.read_cell_append_other b _ ha, if_neg ha]

theorem Memory.mem_fill {n : Nat} {b : Byte} {c : Host.Cell} (h : c ∈ Memory.fill n b) :
    c.1 < n ∧ c.2 = b ∧ b ≠ Memory.background := by
  unfold Memory.fill at h
  split at h
  · simp at h
  · next hb =>
    obtain ⟨a, ha, rfl⟩ := List.mem_map.1 h
    exact ⟨List.mem_range.1 ha, rfl, hb⟩

theorem Memory.fill_wf (n : Nat) (b : Byte) : (Memory.fill n b).wf := by
  refine ⟨?_, fun c hc => (Memory.mem_fill hc).2.1 ▸ (Memory.mem_fill hc).2.2⟩
  unfold Memory.fill
  split
  · exact .nil
  · rw [List.pairwise_map]; exact List.pairwise_lt_range

theorem Memory.read_map_pair (l : List Nat) (b : Byte) (a : Nat) :
    Memory.read (l.map (fun x => (x, b))) a = if a ∈ l then b else Memory.background := by
  induction l with
  | nil => rfl
  | cons x l ih =>
    by_cases h : x = a
    · simp [Memory.read, h]
    · have h2 : a ≠ x := fun e => h e.symm
      simp [Memory.read, h, h2, ih]

/-- A fill sets every byte below its length and leaves the background above. -/
theorem Memory.read_fill (n : Nat) (b : Byte) (a : Nat) :
    (Memory.fill n b).read a = if a < n then b else Memory.background := by
  unfold Memory.fill
  split
  · next hb => subst hb; simp [Memory.read]
  · rw [Memory.read_map_pair]; simp

/-- Two canonical memories that read alike everywhere are the same data. -/
theorem Memory.ext_of_wf {m m' : Memory} (h : m.wf) (h' : m'.wf) (hr : ∀ a, m.read a = m'.read a) : m = m' := by
  induction m generalizing m' with
  | nil =>
    cases m' with
    | nil => rfl
    | cons d m' =>
      have := hr d.1
      simp [Memory.read] at this
      exact absurd this.symm (h'.2 d (by simp))
  | cons c m ih =>
    cases m' with
    | nil =>
      have := hr c.1
      simp [Memory.read] at this
      exact absurd this (h.2 c (by simp))
    | cons d m' =>
      obtain ⟨a, b⟩ := c
      obtain ⟨a', b'⟩ := d
      have hp := List.pairwise_cons.1 h.1
      have hp' := List.pairwise_cons.1 h'.1
      have haa : a = a' := by
        rcases Nat.lt_trichotomy a a' with hlt | he | hlt
        · have h1 : Memory.read ((a', b') :: m') a = Memory.background :=
            Memory.read_of_lt_all fun c hc => by
              rcases List.mem_cons.1 hc with rfl | hc
              · exact hlt
              · exact Nat.lt_trans hlt (hp'.1 c hc)
          have h2 := hr a
          rw [h1] at h2
          simp [Memory.read] at h2
          exact absurd h2 (h.2 (a, b) (by simp))
        · exact he
        · have h1 : Memory.read ((a, b) :: m) a' = Memory.background :=
            Memory.read_of_lt_all fun c hc => by
              rcases List.mem_cons.1 hc with rfl | hc
              · exact hlt
              · exact Nat.lt_trans hlt (hp.1 c hc)
          have h2 := hr a'
          rw [h1] at h2
          simp [Memory.read] at h2
          exact absurd h2.symm (h'.2 (a', b') (by simp))
      subst haa
      have hbb : b = b' := by simpa [Memory.read] using hr a
      subst hbb
      congr 1
      refine ih ⟨hp.2, fun c hc => h.2 c (by simp [hc])⟩ ⟨hp'.2, fun c hc => h'.2 c (by simp [hc])⟩ fun x => ?_
      by_cases hx : a = x
      · subst hx
        rw [Memory.read_of_lt_all hp.1, Memory.read_of_lt_all hp'.1]
      · simpa [Memory.read, hx] using hr x

end Sys2Proof.Machine
end

