-- ==== Sys2Proof/Laws/Operands.lean ====
section
/-! SUPPORT. The operand forms: what a read of a packed field gives back. -/

namespace Sys2Proof.Operands

theorem inRange_iff {lo hi : Nat} {v : Byte} : inRange lo hi v = true ↔ lo ≤ v.toNat ∧ v.toNat ≤ hi := by
  simp [inRange]

/-! ### Pixels -/

theorem nibbleOf_withNibble_same (old : Byte) (x : Nat) (c : Nibble) : nibbleOf (withNibble old x c) x = c := by
  unfold nibbleOf withNibble
  split
  · ext i hi
    have h8 : 4 + i < 8 := by omega
    simp [BitVec.getElem_extractLsb', BitVec.getLsbD_eq_getElem h8, hi]
    interval_cases i <;> simp
  · ext i hi
    have h8 : i < 8 := by omega
    simp [BitVec.getElem_extractLsb', BitVec.getLsbD_eq_getElem h8, hi]
    interval_cases i <;> simp

/-- The other pixel of the byte is preserved (R155). -/
theorem nibbleOf_withNibble_other (old : Byte) {x x' : Nat} (c : Nibble) (h : x % 2 ≠ x' % 2) :
    nibbleOf (withNibble old x c) x' = nibbleOf old x' := by
  unfold nibbleOf withNibble
  split
  · next hx =>
    rw [if_neg (by omega)]
    ext i hi
    simp [BitVec.getElem_extractLsb']
    interval_cases i <;> simp
  · next hx =>
    rw [if_pos (by omega)]
    ext i hi
    simp [BitVec.getElem_extractLsb']
    interval_cases i <;> simp

/-- A byte is its two pixels. -/
theorem byte_ext_nibbles {a b : Byte} (h0 : nibbleOf a 0 = nibbleOf b 0) (h1 : nibbleOf a 1 = nibbleOf b 1) :
    a = b := by
  simp only [nibbleOf, Nat.zero_mod, if_pos] at h0
  simp only [nibbleOf, show (1 : Nat) % 2 = 1 from rfl, Nat.one_ne_zero, if_false] at h1
  ext i hi
  by_cases h : i < 4
  · have := congrArg (fun v : Nibble => v.getLsbD i) h1
    simpa [BitVec.getLsbD_extractLsb', h, BitVec.getLsbD_eq_getElem hi] using this
  · have := congrArg (fun v : Nibble => v.getLsbD (i - 4)) h0
    have hl : i - 4 < 4 := by omega
    have he : 4 + (i - 4) = i := by omega
    simpa [BitVec.getLsbD_extractLsb', hl, he, BitVec.getLsbD_eq_getElem hi] using this

theorem nibbleOf_fillByte (c : Nibble) (x : Nat) : nibbleOf (fillByte c) x = c := by
  unfold nibbleOf fillByte
  split
  · ext i hi
    have h8 : 4 + i < 8 := by omega
    simp [BitVec.getElem_extractLsb', BitVec.getLsbD_eq_getElem h8, hi]
  · ext i hi
    have h8 : i < 8 := by omega
    simp [BitVec.getElem_extractLsb', BitVec.getLsbD_eq_getElem h8, hi]

/-! ### Packed numerics -/

/-- The two nibbles of a packed byte do not overlap: OR is addition. -/
theorem or_shift_toNat (lo hi : Byte) (hlo : lo.toNat < 16) (hhi : hi.toNat < 16) :
    (lo ||| (hi <<< 4)).toNat = lo.toNat + 16 * hi.toNat := by
  rw [BitVec.toNat_or, BitVec.toNat_shiftLeft, Nat.mod_eq_of_lt (by rw [Nat.shiftLeft_eq]; omega), Nat.or_comm,
    ← Nat.shiftLeft_add_eq_or_of_lt (by omega : lo.toNat < 2 ^ 4), Nat.shiftLeft_eq]
  omega

theorem phaseByte_toNat {phase1 phase2 : Byte} (h1 : 1 ≤ phase1.toNat) (h2 : phase1.toNat ≤ 32)
    (h3 : phase2.toNat < 16) :
    (phaseByte phase1 phase2).toNat = (phase1.toNat - 1) / 2 + 16 * phase2.toNat := by
  have hs : ((phase1 - 1) >>> 1).toNat = (phase1.toNat - 1) / 2 := by
    rw [BitVec.toNat_ushiftRight, Nat.shiftRight_eq_div_pow, BitVec.toNat_sub]
    have : (1 : Byte).toNat = 1 := rfl
    omega
  rw [phaseByte, or_shift_toNat _ _ (by omega) h3, hs]

theorem clockByte_toNat {fosc divset : Byte} (h1 : fosc.toNat < 16) (h2 : divset.toNat < 16) :
    (clockByte fosc divset).toNat = 16 * fosc.toNat + divset.toNat := by
  rw [clockByte, BitVec.or_comm, or_shift_toNat _ _ h2 h1]; omega

theorem muxByte_toNat {ratio : Byte} (h : 1 ≤ ratio.toNat) : (muxByte ratio).toNat = ratio.toNat - 1 := by
  have : (1 : Byte).toNat = 1 := rfl
  rw [muxByte, BitVec.toNat_sub]; omega

end Sys2Proof.Operands
end

