-- ==== Sys2Proof/Laws/FrameStore.lean ====
section
/-! SUPPORT. The Frame Stores: what the byte operations do, that they keep a store legal, and that a pixel's byte
index lies in the buffer. -/

namespace Sys2Proof.Machine

open Operands

variable {f f' : FrameStore}

/-! ### Dimensions and indexes -/

theorem dimsWf_iff {w h : Nat} : dimsWf w h = true ↔ w % 2 = 0 ∧ 2 ≤ w ∧ 1 ≤ h := by
  simp [dimsWf, and_assoc]

theorem FrameStore.inBounds_iff {x y : Nat} : f.inBounds x y = true ↔ x < f.width ∧ y < f.height := by
  simp [FrameStore.inBounds]

/-- With an even width the byte index is the row's first byte plus half of x (R52). -/
theorem byteIndex_eq {w : Nat} (hw : w % 2 = 0) (x y : Nat) : byteIndex w x y = y * (w / 2) + x / 2 := by
  obtain ⟨k, rfl⟩ : ∃ k, w = 2 * k := ⟨w / 2, by omega⟩
  have : y * (2 * k) = 2 * (y * k) := by ring
  rw [byteIndex, this, Nat.mul_div_cancel_left k (by omega)]
  omega

theorem FrameStore.len_eq (hw : f.width % 2 = 0) : f.len = f.height * (f.width / 2) := by
  obtain ⟨k, hk⟩ : ∃ k, f.width = 2 * k := ⟨f.width / 2, by omega⟩
  have : f.width * f.height = 2 * (f.height * k) := by rw [hk]; ring
  have hk2 : f.width / 2 = k := by omega
  rw [FrameStore.len, this, hk2]
  omega

/-- An in-bounds pixel never indexes outside the buffer (R52). -/
theorem FrameStore.byteIndex_lt (hd : dimsWf f.width f.height = true) {x y : Nat} (hb : f.inBounds x y = true) :
    byteIndex f.width x y < f.len := by
  obtain ⟨hw, -, -⟩ := dimsWf_iff.1 hd
  obtain ⟨hx, hy⟩ := FrameStore.inBounds_iff.1 hb
  rw [byteIndex_eq hw, FrameStore.len_eq hw]
  have h1 : x / 2 < f.width / 2 := by omega
  have h2 : (y + 1) * (f.width / 2) ≤ f.height * (f.width / 2) := Nat.mul_le_mul_right _ hy
  have h3 : (y + 1) * (f.width / 2) = y * (f.width / 2) + f.width / 2 := by ring
  omega

/-- Two in-bounds pixels with the same byte index are in the same row, in the same half-column (R54). -/
theorem byteIndex_inj {w : Nat} (hw : w % 2 = 0) {x y x' y' : Nat} (hx : x < w) (hx' : x' < w)
    (h : byteIndex w x y = byteIndex w x' y') : y = y' ∧ x / 2 = x' / 2 := by
  rw [byteIndex_eq hw, byteIndex_eq hw] at h
  have h1 : x / 2 < w / 2 := by omega
  have h2 : x' / 2 < w / 2 := by omega
  have hpos : 0 < w / 2 := by omega
  have e1 : (y * (w / 2) + x / 2) / (w / 2) = y := by
    rw [Nat.mul_comm, Nat.mul_add_div hpos, Nat.div_eq_of_lt h1]; rfl
  have e2 : (y' * (w / 2) + x' / 2) / (w / 2) = y' := by
    rw [Nat.mul_comm, Nat.mul_add_div hpos, Nat.div_eq_of_lt h2]; rfl
  have hy : y = y' := by rw [← e1, ← e2, h]
  subst hy
  exact ⟨rfl, by omega⟩

/-! ### Byte operations -/

theorem FrameStore.memRead_of_lt {i : Nat} (h : i < f.len) : f.memRead i = some (f.mem.read i) := if_pos h

theorem FrameStore.memRead_of_ge {i : Nat} (h : f.len ≤ i) : f.memRead i = none := if_neg (by omega)

/-- What MemWrite can do: it answers exactly inside the buffer, and then only that byte changes. -/
theorem FrameStore.memWrite_some {i : Nat} {b : Byte} (h : f.memWrite i b = some f') :
    i < f.len ∧ f' = { f with mem := f.mem.write i b } := by
  unfold FrameStore.memWrite at h
  split at h
  · next hi => exact ⟨hi, by cases h; rfl⟩
  · cases h

theorem FrameStore.memWrite_wf {i : Nat} {b : Byte} (hf : f.wf) (h : f.memWrite i b = some f') : f'.wf := by
  obtain ⟨hi, rfl⟩ := FrameStore.memWrite_some h
  refine ⟨hf.1, Memory.write_wf hf.2.1 i b, fun c hc => ?_⟩
  rcases Memory.mem_write hc with hc | ⟨rfl, -⟩
  · exact hf.2.2 c hc
  · exact hi

/-- A read after a write of one byte. -/
theorem FrameStore.memRead_memWrite {i a : Nat} {b : Byte} (hf : f.wf) (h : f.memWrite i b = some f') :
    f'.memRead a = if a = i then some b else f.memRead a := by
  obtain ⟨hi, rfl⟩ := FrameStore.memWrite_some h
  have hl : FrameStore.len { f with mem := f.mem.write i b } = f.len := rfl
  unfold FrameStore.memRead
  rw [hl, Memory.read_write hf.2.1]
  by_cases ha : a = i
  · subst ha; simp [hi]
  · simp [ha]

theorem FrameStore.fill_wf (hd : dimsWf f.width f.height = true) (b : Byte) : (f.fill b).wf :=
  ⟨hd, Memory.fill_wf _ _, fun _ hc => (Memory.mem_fill hc).1⟩

theorem FrameStore.memRead_fill (b : Byte) (a : Nat) :
    (f.fill b).memRead a = if a < f.len then some b else none := by
  have hl : (f.fill b).len = f.len := rfl
  unfold FrameStore.memRead
  rw [hl]
  split
  · next h => simp [FrameStore.fill, Memory.read_fill, h]
  · rfl

theorem FrameStore.new_wf {w h : Nat} (hd : dimsWf w h = true) : (FrameStore.new w h).wf :=
  ⟨hd, ⟨.nil, by simp [FrameStore.new]⟩, by simp [FrameStore.new]⟩

/-- The memory of the machine right after reset is in canonical form. -/
theorem State.reset_stores_wf : ∀ f ∈ State.reset.stores, f.wf := by decide

theorem FrameStore.readout_length : f.readout.length = f.len := by simp [FrameStore.readout]

theorem FrameStore.readout_getElem? (i : Nat) : f.readout[i]? = f.memRead i := by
  unfold FrameStore.readout FrameStore.memRead
  by_cases h : i < f.len <;> simp [h]

/-! ### Bytes of the state -/

variable (s : State)

theorem State.readByte_setStore {k : Nat} (hk : s.stores[k]? = some f) (f' : FrameStore) (k' a : Nat) :
    (s.setStore k f').readByte k' a = if k' = k then f'.memRead a else s.readByte k' a := by
  have hlt : k < s.stores.length := by
    rcases List.getElem?_eq_some_iff.1 hk with ⟨h, -⟩; exact h
  unfold State.readByte
  by_cases h : k' = k
  · subst h; simp [hlt]
  · have h2 : k ≠ k' := fun e => h e.symm
    simp [h, h2]

/-- onStore answers through the store the reference names, or refuses. -/
theorem State.onStore_some {k : Nat} (hk : s.stores[k]? = some f)
    (g : FrameStore → Host.Outcome State Fault Refusal) :
    s.onStore k g = g f := by
  rw [State.onStore, hk]

theorem State.onStore_next {k : Nat} {g : FrameStore → Host.Outcome State Fault Refusal} {t : State}
    (h : s.onStore k g = .next t) : ∃ f, s.stores[k]? = some f ∧ g f = .next t := by
  unfold State.onStore at h
  split at h
  · next f hf => exact ⟨f, hf, h⟩
  · cases h

/-- What a Frame Store transaction can do: one store's bytes are written (its dimensions stay, and it stays legal), or
a store is added, or a result is delivered, or nothing happens. -/
theorem serveFrameStore_next {op : FrameStoreOp} {t : State} (h : serveFrameStore op s = .next t) :
    (∃ k f f', s.stores[k]? = some f ∧ f'.width = f.width ∧ f'.height = f.height ∧ (f.wf → f'.wf) ∧
      t = s.setStore k f' ∧ ((∃ x y c, op = .setPixel k x y c) ∨ ∃ c, op = .clear k c)) ∨
    (∃ w h, op = .construct w h ∧ dimsWf w h = true ∧
      t = (s.addStore (.new w h)).deliver (.frameStore s.stores.length)) ∨
    (∃ v k x y, op = .getPixel k x y ∧ t = s.deliver (.pixel v)) ∨
    (∃ k w h, op = .dims k ∧ t = s.deliver (.dims w h)) ∨
    (∃ k bs, op = .readout k ∧ t = s.deliver (.bytes bs)) ∨
    (∃ k x y c, op = .setPixel k x y c ∧ t = s) := by
  cases op with
  | construct w h' =>
    unfold serveFrameStore opConstruct at h
    simp only at h
    split at h
    · next hd => exact .inr (.inl ⟨w, h', rfl, hd, by cases h; rfl⟩)
    · cases h
  | setPixel k x y c =>
    obtain ⟨f, hk, hg⟩ := State.onStore_next (g := _) s h
    split at hg
    · split at hg
      · split at hg
        · next f' hf' =>
          obtain ⟨-, he⟩ := FrameStore.memWrite_some hf'
          exact .inl ⟨k, f, f', hk, by rw [he], by rw [he], fun hw => FrameStore.memWrite_wf hw hf',
            by cases hg; rfl, .inl ⟨x, y, c, rfl⟩⟩
        · cases hg
      · cases hg
    · exact .inr (.inr (.inr (.inr (.inr ⟨k, x, y, c, rfl, by cases hg; rfl⟩))))
  | clear k c =>
    obtain ⟨f, hk, hg⟩ := State.onStore_next (g := _) s h
    exact .inl ⟨k, f, f.fill (fillByte c), hk, rfl, rfl, fun hw => FrameStore.fill_wf hw.1 _,
      by cases hg; rfl, .inr ⟨c, rfl⟩⟩
  | getPixel k x y =>
    obtain ⟨f, hk, hg⟩ := State.onStore_next (g := _) s h
    split at hg
    · split at hg
      · exact .inr (.inr (.inl ⟨_, k, x, y, rfl, by cases hg; rfl⟩))
      · cases hg
    · exact .inr (.inr (.inl ⟨none, k, x, y, rfl, by cases hg; rfl⟩))
  | dims k =>
    obtain ⟨f, hk, hg⟩ := State.onStore_next (g := _) s h
    exact .inr (.inr (.inr (.inl ⟨k, f.width, f.height, rfl, by cases hg; rfl⟩)))
  | readout k =>
    obtain ⟨f, hk, hg⟩ := State.onStore_next (g := _) s h
    exact .inr (.inr (.inr (.inr (.inl ⟨k, f.readout, rfl, by cases hg; rfl⟩))))

end Sys2Proof.Machine
end

