-- ==== Sys2Proof/Laws/PerInstr.lean ====
section
/-! SUPPORT. One lemma per constructor of Instr for the family WireImage: the encoder and the opcode map agree on the
format of every intent (30_encoding.md R80, R81, R84). -/

namespace Sys2Proof.Laws.WireImage

/-- The opcode map has a row for the intent's opcode byte, with the parameter count and the extension mark of the
intent, and the wire image of a well-formed intent is one byte and that many parameter bytes. -/
def Statement (i : Instr) : Prop :=
  i.wf = true → ∃ r, rowOf true i.opcode = some r ∧ r.extension = i.isExtension ∧ r.paramCount = i.params.length ∧
    (encode i).length = 1 + r.paramCount

theorem enableGrayScaleTable : Statement .enableGrayScaleTable := fun _ => ⟨_, rfl, rfl, rfl, rfl⟩
theorem setColumnAddress (start stop : Byte) :
    Statement (.setColumnAddress start stop) := fun _ => ⟨_, rfl, rfl, rfl, rfl⟩
theorem writeRam : Statement .writeRam := fun _ => ⟨_, rfl, rfl, rfl, rfl⟩
theorem readRam : Statement .readRam := fun _ => ⟨_, rfl, rfl, rfl, rfl⟩
theorem setRowAddress (start stop : Byte) : Statement (.setRowAddress start stop) := fun _ => ⟨_, rfl, rfl, rfl, rfl⟩
theorem setRemapping (axis : Axis) (col nib : Direction) (scan : ScanDirection) (layout : ComLayout) :
    Statement (.setRemapping axis col nib scan layout) := fun _ => ⟨_, rfl, rfl, rfl, rfl⟩
theorem setStartLine (line : Byte) : Statement (.setStartLine line) := fun _ => ⟨_, rfl, rfl, rfl, rfl⟩
theorem setDisplayOffset (line : Byte) : Statement (.setDisplayOffset line) := fun _ => ⟨_, rfl, rfl, rfl, rfl⟩
theorem setDisplayModeAllOff : Statement .setDisplayModeAllOff := fun _ => ⟨_, rfl, rfl, rfl, rfl⟩
theorem setDisplayModeAllOn : Statement .setDisplayModeAllOn := fun _ => ⟨_, rfl, rfl, rfl, rfl⟩
theorem setDisplayModeNormal : Statement .setDisplayModeNormal := fun _ => ⟨_, rfl, rfl, rfl, rfl⟩
theorem setDisplayModeInverse : Statement .setDisplayModeInverse := fun _ => ⟨_, rfl, rfl, rfl, rfl⟩
theorem enablePartialDisplay (start stop : Byte) :
    Statement (.enablePartialDisplay start stop) := fun _ => ⟨_, rfl, rfl, rfl, rfl⟩
theorem disablePartialDisplay : Statement .disablePartialDisplay := fun _ => ⟨_, rfl, rfl, rfl, rfl⟩
theorem functionSelect (internalVdd : Bool) :
    Statement (.functionSelect internalVdd) := fun _ => ⟨_, rfl, rfl, rfl, rfl⟩
theorem setSleepModeTrue : Statement .setSleepModeTrue := fun _ => ⟨_, rfl, rfl, rfl, rfl⟩
theorem setSleepModeFalse : Statement .setSleepModeFalse := fun _ => ⟨_, rfl, rfl, rfl, rfl⟩
theorem setPhaseLengths (phase1 phase2 : Byte) :
    Statement (.setPhaseLengths phase1 phase2) := fun _ => ⟨_, rfl, rfl, rfl, rfl⟩
theorem setClockFoscDivset (fosc divset : Byte) :
    Statement (.setClockFoscDivset fosc divset) := fun _ => ⟨_, rfl, rfl, rfl, rfl⟩
theorem setDisplayEnhancements (extVsl enhLowGs : Bool) :
    Statement (.setDisplayEnhancements extVsl enhLowGs) := fun _ => ⟨_, rfl, rfl, rfl, rfl⟩
theorem setSecondPrechargePeriod (period : Byte) :
    Statement (.setSecondPrechargePeriod period) := fun _ => ⟨_, rfl, rfl, rfl, rfl⟩
theorem setGrayScaleTable (table : List Byte) : Statement (.setGrayScaleTable table) := fun h => by
  have hl : table.length = 15 := by simpa [Instr.wf] using h
  exact ⟨_, rfl, rfl, hl.symm, by rw [encode, Instr.params, List.length_cons, hl]; rfl⟩
theorem setDefaultGrayScaleTable : Statement .setDefaultGrayScaleTable := fun _ => ⟨_, rfl, rfl, rfl, rfl⟩
theorem setPreChargeVoltage (v : Byte) : Statement (.setPreChargeVoltage v) := fun _ => ⟨_, rfl, rfl, rfl, rfl⟩
theorem setComDeselectVoltage (v : Byte) : Statement (.setComDeselectVoltage v) := fun _ => ⟨_, rfl, rfl, rfl, rfl⟩
theorem setContrastCurrent (c : Byte) : Statement (.setContrastCurrent c) := fun _ => ⟨_, rfl, rfl, rfl, rfl⟩
theorem setMasterContrast (c : Byte) : Statement (.setMasterContrast c) := fun _ => ⟨_, rfl, rfl, rfl, rfl⟩
theorem setMuxRatio (ratio : Byte) : Statement (.setMuxRatio ratio) := fun _ => ⟨_, rfl, rfl, rfl, rfl⟩
theorem setCommandLock (lock : Bool) : Statement (.setCommandLock lock) := fun _ => ⟨_, rfl, rfl, rfl, rfl⟩

end Sys2Proof.Laws.WireImage
end

