-- ==== Sys2Proof/Laws/Session.lean ====
section
/-! SUPPORT. The session: one equation per primitive, and, said once, everything a session sequence can do: it is made
of the seven kinds of BusStep, and it ends as a LegalRun. Invariants of the bus follow by one induction over BusSteps. -/

namespace Sys2Proof.Machine

/-! ### The primitives -/

/-- A transport write logs its request, takes the environment's next reply and notes a recovery it leaves due. -/
theorem State.tx_eq (s : State) (bytes : List Byte) :
    s.tx bytes =
      ⟨((s.logEvent (.tx s.pinDc bytes)).setTxReplies s.txReplies.tail).setRecoveryDue
        (s.recoveryDue || (s.txReplies.headD .ok).needsRecovery), (s.txReplies.headD .ok).flow⟩ := by
  rcases s with ⟨_, _, due, _, _, _, _, _, _, _, _, _, replies, _⟩
  cases replies <;> cases due <;> rfl

/-- A delay logs its request and takes the environment's next reply. -/
theorem State.delay_eq (s : State) (n : Nat) :
    s.delay n = ⟨(s.logEvent (.delay n)).setDelayReplies s.delayReplies.tail, (s.delayReplies.headD .done).flow⟩ := by
  rcases s with ⟨_, _, _, _, _, _, _, _, _, _, _, _, _, replies⟩
  cases replies <;> rfl

@[simp] theorem Run.ok_andThen (s : State) (k : State → Run) : (Run.ok s).andThen k = k s := rfl
@[simp] theorem Run.err_andThen (s : State) (e : ErrorKind) (k : State → Run) :
    (Run.mk s (.err e)).andThen k = ⟨s, .err e⟩ := rfl
@[simp] theorem Run.cancelled_andThen (s : State) (k : State → Run) :
    (Run.mk s .cancelled).andThen k = ⟨s, .cancelled⟩ := rfl

/-- The `?` stops at the first step that does not end Ok. -/
theorem Run.andThen_of_not_ok {r : Run} (h : r.flow ≠ .ok) (k : State → Run) : r.andThen k = r := by
  rcases r with ⟨s, f⟩
  cases f <;> first | rfl | exact absurd rfl h

/-! ### What the codec emits -/

/-- The codec emits the opcode of the tables (R83, R85). -/
theorem codec_opcode {i : Instr} {c : EncodedCommand} (h : codec i = .ok c) : c.opcode = i.opcode := by
  cases i <;>
    simp only [codec, encEnableGrayScaleTable, encSetColumnAddress, encWriteRam, encReadRam, encSetRowAddress,
      encSetRemapping, encSetStartLine, encSetDisplayOffset, encDisplayAllOff, encDisplayAllOn, encDisplayNormal,
      encDisplayInverse, encEnablePartialDisplay, encDisablePartialDisplay, encFunctionSelect, encSleepOn,
      encSleepOff, encSetPhaseLengths, encSetClockFoscDivset, encSetDisplayEnhancements,
      encSetSecondPrechargePeriod, encSetGrayScaleTable, encSetDefaultGrayScaleTable, encSetPreChargeVoltage,
      encSetComDeselectVoltage, encSetContrastCurrent, encSetMasterContrast, encSetMuxRatio, encSetCommandLock,
      raise, emit] at h <;>
    (try split at h) <;> cases h <;> rfl

/-- Every opcode the codec emits is one of the tables (R93). -/
theorem codec_isOpcode {i : Instr} {ext : Bool} {c : EncodedCommand} (ha : i.admitted ext = true)
    (h : codec i = .ok c) : IsOpcode ext c.opcode := by
  rw [codec_opcode h]
  cases i <;>
    first
    | exact .inl (by simp only [Instr.opcode]; decide)
    | exact .inr ⟨by simpa [Instr.admitted, Instr.isExtension] using ha, by simp only [Instr.opcode]; decide⟩

/-- An intent other than ReadRam has an opcode a session may send. -/
theorem codec_isSentOpcode {i : Instr} {ext : Bool} {c : EncodedCommand} (ha : i.admitted ext = true)
    (hr : i ≠ .readRam) (h : codec i = .ok c) : IsSentOpcode ext c.opcode := by
  refine ⟨codec_isOpcode ha h, ?_⟩
  rw [codec_opcode h]
  cases i <;> first | exact absurd rfl hr | (simp only [Instr.opcode]; decide)

/-- BadTableLength arises only from the extension command (R202). -/
theorem codec_badTableLength {i : Instr} {ext : Bool} (ha : i.admitted ext = true)
    (h : codec i = .err .badTableLength) : ext = true := by
  cases i <;>
    simp only [codec, encEnableGrayScaleTable, encSetColumnAddress, encWriteRam, encReadRam, encSetRowAddress,
      encSetRemapping, encSetStartLine, encSetDisplayOffset, encDisplayAllOff, encDisplayAllOn, encDisplayNormal,
      encDisplayInverse, encEnablePartialDisplay, encDisablePartialDisplay, encFunctionSelect, encSleepOn,
      encSleepOff, encSetPhaseLengths, encSetClockFoscDivset, encSetDisplayEnhancements,
      encSetSecondPrechargePeriod, encSetGrayScaleTable, encSetDefaultGrayScaleTable, encSetPreChargeVoltage,
      encSetComDeselectVoltage, encSetContrastCurrent, encSetMasterContrast, encSetMuxRatio, encSetCommandLock,
      raise, emit] at h <;>
    first
    | cases h
    | (split at h <;> cases h <;> simpa [Instr.admitted, Instr.isExtension] using ha)

/-! ### Everything a session sequence is made of -/

/-- One elementary effect of a session sequence. -/
inductive BusStep (ext : Bool) : State → State → Prop where
  | phase (s : State) (p : Phase) : BusStep ext s (s.setPhase p)
  | recovered (s : State) : BusStep ext s (s.setRecoveryDue false)
  | orientation (s : State) (o : Orientation) : BusStep ext s (s.setOrientation o)
  | pin (s : State) (p : Pin) (l : Level) (hp : p ≠ .dc) : BusStep ext s (s.drive p l)
  | delay (s : State) (n : Nat) : BusStep ext s (s.delay n).state
  | command (s : State) (op : Byte) (h : IsSentOpcode ext op) :
    BusStep ext s ((s.drive .dc .low).tx [op]).state
  | data (s : State) (bytes : List Byte) : BusStep ext s ((s.drive .dc .high).tx bytes).state

/-- Any number of elementary effects. -/
abbrev BusSteps (ext : Bool) : State → State → Prop := Relation.ReflTransGen (BusStep ext)

/-- How a session sequence ends: after elementary effects, and never with an error the taxonomy rules out. -/
structure LegalRun (ext : Bool) (s : State) (r : Run) : Prop where
  steps : BusSteps ext s r.state
  noPinFailure : r.flow ≠ .err .pinFailure
  badTable : r.flow = .err .badTableLength → ext = true

variable {ext : Bool} {s : State}

theorem LegalRun.andThen {r : Run} {k : State → Run} (h : LegalRun ext s r) (hk : ∀ s', LegalRun ext s' (k s')) :
    LegalRun ext s (r.andThen k) := by
  by_cases hf : r.flow = .ok
  · have : r.andThen k = k r.state := by unfold Run.andThen; rw [hf]
    rw [this]
    exact ⟨h.steps.trans (hk _).steps, (hk _).noPinFailure, (hk _).badTable⟩
  · rw [Run.andThen_of_not_ok hf]; exact h

theorem legalRun_ok {t : State} (h : BusSteps ext s t) : LegalRun ext s (.ok t) :=
  ⟨h, by simp [Run.ok], by simp [Run.ok]⟩

theorem State.tx_flow (s : State) (bytes : List Byte) :
    (s.tx bytes).flow ≠ .err .pinFailure ∧ (s.tx bytes).flow ≠ .err .badTableLength := by
  rw [State.tx_eq]
  cases s.txReplies.headD .ok <;> simp [TxReply.flow]

theorem legalRun_command (op : Byte) (h : IsSentOpcode ext op) : LegalRun ext s ((s.drive .dc .low).tx [op]) :=
  ⟨.single (.command s op h), (State.tx_flow _ _).1, fun e => absurd e (State.tx_flow _ _).2⟩

theorem legalRun_data (bytes : List Byte) : LegalRun ext s ((s.drive .dc .high).tx bytes) :=
  ⟨.single (.data s bytes), (State.tx_flow _ _).1, fun e => absurd e (State.tx_flow _ _).2⟩

theorem legalRun_drive_delay (p : Pin) (hp : p ≠ .dc) (l : Level) (n : Nat) :
    LegalRun ext s ((s.drive p l).delay n) := by
  refine ⟨(Relation.ReflTransGen.single (.pin s p l hp)).tail (.delay _ n), ?_, ?_⟩ <;>
    rw [State.delay_eq] <;> cases (s.drive p l).delayReplies.headD .done <;> simp [DelayReply.flow]

theorem legalRun_transmit {c : EncodedCommand} (h : IsSentOpcode ext c.opcode) : LegalRun ext s (transmit c s) := by
  refine (legalRun_command _ h).andThen fun s' => ?_
  split
  · exact legalRun_ok .refl
  · exact legalRun_data _

theorem legalRun_send {i : Instr} (ha : i.admitted ext = true) (hr : i ≠ .readRam) : LegalRun ext s (send i s) := by
  unfold send
  split
  · next e he =>
    refine ⟨.refl, by cases e <;> simp [EncodingError.toKind], fun h => ?_⟩
    cases e with
    | outOfRange => simp [EncodingError.toKind] at h
    | badTableLength => exact codec_badTableLength ha he
  · next c hc => exact legalRun_transmit (codec_isSentOpcode ha hr hc)

theorem admitted_of_core {i : Instr} (h : i.isExtension = false) : i.admitted ext = true := by
  simp [Instr.admitted, h]

theorem legalRun_sendAll {is : List Instr} (h : ∀ i ∈ is, i.isExtension = false ∧ i ≠ .readRam) :
    LegalRun ext s (sendAll is s) := by
  induction is generalizing s with
  | nil => exact legalRun_ok .refl
  | cons i is ih =>
    obtain ⟨he, hr⟩ := h i (by simp)
    exact (legalRun_send (admitted_of_core he) hr).andThen fun s' => ih fun j hj => h j (by simp [hj])

/-- `initialize` sends core commands only, and not ReadRam. -/
theorem initList_core (p : InitParams) (b : Bool) :
    ∀ i ∈ initList p b, i.isExtension = false ∧ i ≠ .readRam := by
  intro i hi
  cases b <;> simp [initList, setSleepMode, setDisplayMode, remapPreset] at hi <;>
    rcases hi with rfl | rfl | rfl | rfl | rfl | rfl | rfl | rfl | rfl | rfl | rfl | rfl | rfl | rfl | rfl | rfl |
      rfl | rfl | rfl <;> exact ⟨rfl, nofun⟩

theorem remapPreset_core (o : Orientation) : (remapPreset o).isExtension = false := by cases o <;> rfl

theorem legalRun_writeData (bytes : List Byte) : LegalRun ext s (writeData bytes s) := legalRun_data bytes

theorem legalRun_flushBuffer (bytes : List Byte) : LegalRun ext s (flushBuffer bytes s) :=
  (legalRun_send (i := .writeRam) (admitted_of_core rfl) nofun).andThen fun _ => legalRun_writeData bytes

theorem legalRun_hardReset : LegalRun ext s (hardReset s) :=
  (legalRun_drive_delay _ (by decide) _ _).andThen fun _ =>
    (legalRun_drive_delay _ (by decide) _ _).andThen fun _ =>
      (legalRun_drive_delay _ (by decide) _ _).andThen fun s3 => legalRun_ok (.single (.phase s3 _))

theorem legalRun_applyOrientation (o : Orientation) : LegalRun ext s (applyOrientation o s) :=
  have h := legalRun_send (ext := ext) (s := s.setOrientation o) (admitted_of_core (remapPreset_core o))
    (by cases o <;> nofun)
  ⟨(Relation.ReflTransGen.single (.orientation s o)).trans h.steps, h.noPinFailure, h.badTable⟩

theorem legalRun_initSequence : LegalRun ext s (initSequence s) :=
  legalRun_hardReset.andThen fun _ =>
    (legalRun_sendAll (initList_core _ _)).andThen fun _ =>
      (legalRun_applyOrientation _).andThen fun s3 =>
        legalRun_ok ((Relation.ReflTransGen.single (.phase s3 _)).tail (.recovered _))

theorem legalRun_addressWindow (x y w h : Nat) : LegalRun ext s (addressWindow x y w h s) := by
  unfold addressWindow
  split
  · exact (legalRun_send (i := windowColumns x w) (admitted_of_core rfl) nofun).andThen fun _ =>
      legalRun_send (i := windowRows y h) (admitted_of_core rfl) nofun
  · exact ⟨.refl, by simp, by simp⟩

theorem legalRun_flushFrame (f : FrameStore) : LegalRun ext s (flushFrame f s) :=
  (legalRun_addressWindow _ _ _ _).andThen fun _ =>
    (legalRun_send (i := .writeRam) (admitted_of_core rfl) nofun).andThen fun _ => legalRun_writeData _

theorem State.inReady_next {r : Host.Outcome State Fault Refusal} {t : State} (h : s.inReady r = .next t) :
    s.phase = .ready ∧ r = .next t := by
  unfold State.inReady at h
  split at h
  · next hp => exact ⟨hp, h⟩
  · cases h
  · cases h

/-- Where the phase admits a send, the operation is the send of a caller (R180, U3). -/
theorem opSend_admitted {i : Instr} (ha : i.admitted s.config.extCommands = true)
    (hp : s.phase = .ready ∨ s.phase = .reset ∧ s.recoveryDue = false) : opSend i s = sendDirect i s := by
  rcases hp with hp | ⟨hp, hd⟩ <;> simp [opSend, *]

theorem sendDirect_readRam (s : State) : sendDirect .readRam s = .refused .readRamNotSent := rfl

theorem sendDirect_of_ne {i : Instr} (h : i ≠ .readRam) : sendDirect i s = .next (s.finish (send i s)) := if_neg h

/-- What a direct send that answers a next state did: it sent an intent other than ReadRam. -/
theorem sendDirect_next {i : Instr} {t : State} (h : sendDirect i s = .next t) :
    i ≠ .readRam ∧ t = s.finish (send i s) := by
  by_cases hr : i = .readRam
  · subst hr; cases h
  · rw [sendDirect_of_ne hr] at h; cases h; exact ⟨hr, rfl⟩

/-- A session transaction that answers a next state ran a legal sequence and finished it. -/
theorem serveSession_next {op : SessionOp} {t : State} (h : serveSession op s = .next t) :
    ∃ r, LegalRun s.config.extCommands s r ∧ t = s.finish r := by
  cases op with
  | send i =>
    unfold serveSession opSend at h
    simp only at h
    split at h
    · next ha =>
      suffices hd : sendDirect i s = .next t by
        obtain ⟨hr, rfl⟩ := sendDirect_next hd
        exact ⟨_, legalRun_send ha hr, rfl⟩
      split at h
      · exact h
      · split at h
        · cases h
        · exact h
      · cases h
    · cases h
  | writeData bytes => obtain ⟨-, h⟩ := State.inReady_next h; cases h; exact ⟨_, legalRun_writeData _, rfl⟩
  | flushBuffer bytes => obtain ⟨-, h⟩ := State.inReady_next h; cases h; exact ⟨_, legalRun_flushBuffer _, rfl⟩
  | hardReset => cases h; exact ⟨_, legalRun_hardReset, rfl⟩
  | initializeSession => cases h; exact ⟨_, legalRun_initSequence, rfl⟩
  | setOrientation o => obtain ⟨-, h⟩ := State.inReady_next h; cases h; exact ⟨_, legalRun_applyOrientation _, rfl⟩
  | setAddressWindow x y w h' =>
    obtain ⟨-, h⟩ := State.inReady_next h
    split at h
    · cases h; exact ⟨_, legalRun_addressWindow _ _ _ _, rfl⟩
    · cases h
  | flushFrame k =>
    obtain ⟨-, h⟩ := State.inReady_next h
    obtain ⟨f, -, h⟩ := State.onStore_next s h
    split at h
    · cases h; exact ⟨_, legalRun_flushFrame _, rfl⟩
    · cases h

/-! ### Whether a recovery is due after a sequence (U3) -/

/-- What a sequence does to `recoveryDue`, by how it ended: only a transport write that fails or is cancelled sets it. -/
structure RecoveryNoted (s : State) (r : Run) : Prop where
  ok : r.flow = .ok → r.state.recoveryDue = s.recoveryDue
  failed : ∀ e, r.flow = .err (.communicationFailure e) → r.state.recoveryDue = true
  rejected : r.flow = .err .outOfRange ∨ r.flow = .err .badTableLength → r.state.recoveryDue = s.recoveryDue
  cancelled : r.flow = .cancelled → r.state.recoveryDue = true ∨ r.state.recoveryDue = s.recoveryDue

theorem RecoveryNoted.andThen {r : Run} {k : State → Run} (h : RecoveryNoted s r)
    (hk : ∀ s', RecoveryNoted s' (k s')) : RecoveryNoted s (r.andThen k) := by
  by_cases hf : r.flow = .ok
  · have hr : r.andThen k = k r.state := by unfold Run.andThen; rw [hf]
    rw [hr]
    have h' := hk r.state
    have e := h.ok hf
    exact ⟨fun q => (h'.ok q).trans e, h'.failed, fun q => (h'.rejected q).trans e, fun q => e ▸ h'.cancelled q⟩
  · rw [Run.andThen_of_not_ok hf]; exact h

theorem recoveryNoted_ok {t : State} (h : t.recoveryDue = s.recoveryDue) : RecoveryNoted s (.ok t) :=
  ⟨fun _ => h, fun _ q => (by cases q), fun q => (by rcases q with q | q <;> cases q), fun q => (by cases q)⟩

theorem recoveryNoted_tx (p : Pin) (l : Level) (bytes : List Byte) : RecoveryNoted s ((s.drive p l).tx bytes) := by
  rw [State.tx_eq]
  cases (s.drive p l).txReplies.headD .ok <;> constructor <;> simp [TxReply.flow, TxReply.needsRecovery]

theorem recoveryNoted_delay (p : Pin) (l : Level) (n : Nat) : RecoveryNoted s ((s.drive p l).delay n) := by
  rw [State.delay_eq]
  cases (s.drive p l).delayReplies.headD .done <;> constructor <;> simp [DelayReply.flow]

theorem recoveryNoted_rejected (e : EncodingError) : RecoveryNoted s ⟨s, .err e.toKind⟩ := by
  cases e <;> constructor <;> simp [EncodingError.toKind]

theorem recoveryNoted_send (i : Instr) : RecoveryNoted s (send i s) := by
  unfold send
  split
  · exact recoveryNoted_rejected _
  · refine (recoveryNoted_tx _ _ _).andThen fun s' => ?_
    split
    · exact recoveryNoted_ok rfl
    · exact recoveryNoted_tx _ _ _

theorem recoveryNoted_sendAll (is : List Instr) : RecoveryNoted s (sendAll is s) := by
  induction is generalizing s with
  | nil => exact recoveryNoted_ok rfl
  | cons i is ih => exact (recoveryNoted_send i).andThen fun _ => ih

theorem recoveryNoted_hardReset : RecoveryNoted s (hardReset s) :=
  (recoveryNoted_delay _ _ _).andThen fun _ =>
    (recoveryNoted_delay _ _ _).andThen fun _ => (recoveryNoted_delay _ _ _).andThen fun _ => recoveryNoted_ok rfl

theorem recoveryNoted_applyOrientation (o : Orientation) : RecoveryNoted s (applyOrientation o s) :=
  have h := recoveryNoted_send (s := s.setOrientation o) (remapPreset o)
  ⟨h.ok, h.failed, h.rejected, h.cancelled⟩

theorem recoveryNoted_flushBuffer (bytes : List Byte) : RecoveryNoted s (flushBuffer bytes s) :=
  (recoveryNoted_send _).andThen fun _ => recoveryNoted_tx _ _ _

theorem recoveryNoted_addressWindow (x y w h : Nat) : RecoveryNoted s (addressWindow x y w h s) := by
  unfold addressWindow
  split
  · exact (recoveryNoted_send _).andThen fun _ => recoveryNoted_send _
  · exact recoveryNoted_rejected .outOfRange

theorem recoveryNoted_flushFrame (f : FrameStore) : RecoveryNoted s (flushFrame f s) :=
  (recoveryNoted_addressWindow _ _ _ _).andThen fun _ =>
    (recoveryNoted_send _).andThen fun _ => recoveryNoted_tx _ _ _

/-- `initialize` is the recovery: its success leaves none due; otherwise it is a sequence like the others (R211). -/
theorem initSequence_recovery (s : State) :
    (initSequence s).flow = .ok ∧ (initSequence s).state.recoveryDue = false ∨
    (initSequence s).flow ≠ .ok ∧ RecoveryNoted s (initSequence s) := by
  have key : ∀ (u : State) (r : Run) (k : State → Run), RecoveryNoted u r →
      (∀ s', (k s').flow = .ok ∧ (k s').state.recoveryDue = false ∨ (k s').flow ≠ .ok ∧ RecoveryNoted s' (k s')) →
      ((r.andThen k).flow = .ok ∧ (r.andThen k).state.recoveryDue = false ∨
        (r.andThen k).flow ≠ .ok ∧ RecoveryNoted u (r.andThen k)) := by
    intro u r k hr hk
    by_cases hf : r.flow = .ok
    · have hx : r.andThen k = k r.state := by unfold Run.andThen; rw [hf]
      have e := hr.ok hf
      rw [hx]
      exact (hk r.state).imp_right fun ⟨hn, h⟩ =>
        ⟨hn, fun q => (h.ok q).trans e, h.failed, fun q => (h.rejected q).trans e, fun q => e ▸ h.cancelled q⟩
    · rw [Run.andThen_of_not_ok hf]; exact .inr ⟨hf, hr⟩
  exact key _ _ _ recoveryNoted_hardReset fun _ => key _ _ _ (recoveryNoted_sendAll _) fun _ =>
    key _ _ _ (recoveryNoted_applyOrientation _) fun _ => .inl ⟨rfl, rfl⟩

/-! ### What an elementary effect leaves alone -/

/-- The parts no session sequence writes, and the trace only grows. -/
structure BusFrame (s t : State) : Prop where
  config : t.config = s.config
  inverted : t.inverted = s.inverted
  stores : t.stores = s.stores
  results : t.results = s.results
  requests : t.requests = s.requests
  trace : ∃ evs, t.trace = s.trace ++ evs

theorem BusFrame.refl (s : State) : BusFrame s s := ⟨rfl, rfl, rfl, rfl, rfl, [], by simp⟩

theorem BusFrame.trans {a b c : State} (h : BusFrame a b) (h' : BusFrame b c) : BusFrame a c := by
  obtain ⟨e1, h1⟩ := h.trace
  obtain ⟨e2, h2⟩ := h'.trace
  exact ⟨h'.config.trans h.config, h'.inverted.trans h.inverted, h'.stores.trans h.stores,
    h'.results.trans h.results, h'.requests.trans h.requests, e1 ++ e2, by rw [h2, h1, List.append_assoc]⟩

theorem BusStep.frame {t : State} (h : BusStep ext s t) : BusFrame s t := by
  cases h with
  | phase p => exact ⟨rfl, rfl, rfl, rfl, rfl, [], by simp⟩
  | recovered => exact ⟨rfl, rfl, rfl, rfl, rfl, [], by simp⟩
  | orientation o => exact ⟨rfl, rfl, rfl, rfl, rfl, [], by simp⟩
  | pin p l hp => constructor <;> simp
  | delay n => rw [State.delay_eq]; constructor <;> simp
  | command op h => rw [State.tx_eq]; constructor <;> simp
  | data bytes => rw [State.tx_eq]; constructor <;> simp

theorem BusSteps.frame {t : State} (h : BusSteps ext s t) : BusFrame s t := by
  induction h with
  | refl => exact .refl _
  | tail _ h ih => exact ih.trans h.frame

/-- What finishing an operation does: at most one result delivered and the phase set; all else as the sequence left
it. -/
theorem State.finish_cases (s : State) (r : Run) :
    (r.flow = .ok ∧ s.finish r = r.state.deliver (.session .ok)) ∨
    (∃ e, r.flow = .err e ∧ s.finish r =
      (r.state.setPhase (phaseAfterError e (decide (s.trace.length < r.state.trace.length)) r.state.phase)).deliver
        (.session (.err e))) ∨
    (r.flow = .cancelled ∧ s.finish r = r.state.setPhase .uninitialized) := by
  unfold State.finish
  cases h : r.flow with
  | ok => exact .inl ⟨rfl, rfl⟩
  | err e => exact .inr (.inl ⟨e, rfl, rfl⟩)
  | cancelled => exact .inr (.inr ⟨rfl, rfl⟩)

end Sys2Proof.Machine
end

