-- ==== Sys2Proof/Laws/Step.lean ====
section
/-! SUPPORT. What a step can do, said once: nothing while no transaction is presented, else serve the oldest one. -/

namespace Sys2Proof.Machine

theorem step_idle {s : State} (h : s.requests = []) : step s = .next s := by rw [step, h]

theorem step_serves {s : State} {r : Request} {rest : List Request} (h : s.requests = r :: rest) :
    step s = serve r (s.setRequests rest) := by rw [step, h]

/-- Every next state of a step is the idle one, a codec transaction, a Frame Store transaction or a session
transaction. -/
theorem step_next {s t : State} (h : step s = .next t) :
    (s.requests = [] ∧ t = s) ∨
    ∃ rest,
      (∃ i, s.requests = .encode i :: rest ∧ i.admitted s.config.extCommands = true ∧
        t = (s.setRequests rest).deliver (.codec (codec i))) ∨
      (∃ op, s.requests = .frameStore op :: rest ∧ serveFrameStore op (s.setRequests rest) = .next t) ∨
      (∃ op r, s.requests = .session op :: rest ∧ serveSession op (s.setRequests rest) = .next t ∧
        LegalRun s.config.extCommands (s.setRequests rest) r ∧ t = (s.setRequests rest).finish r) := by
  cases hr : s.requests with
  | nil => rw [step_idle hr] at h; exact .inl ⟨rfl, by cases h; rfl⟩
  | cons r rest =>
    rw [step_serves hr] at h
    refine .inr ⟨rest, ?_⟩
    cases r with
    | encode i =>
      obtain ⟨ha, ht⟩ := exec_next (show exec i (s.setRequests rest) = .next t from h)
      exact .inl ⟨i, rfl, ha, ht⟩
    | frameStore op => exact .inr (.inl ⟨op, rfl, h⟩)
    | session op =>
      obtain ⟨r, hl, ht⟩ := serveSession_next (show serveSession op (s.setRequests rest) = .next t from h)
      exact .inr (.inr ⟨op, r, rfl, h, hl, ht⟩)

end Sys2Proof.Machine
end

