-- ==== Sys2Proof/Tests/Slice0.lean ====
section
/-! SUPPORT. Tests: the checks of WellFormed, one decoded word per constructor written out from the spec's encoding
(30_encoding.md R85 to R92, 95_test_vectors.md), single steps whose expected values are those of 95_test_vectors.md, and
one witness per statement that has hypotheses. -/

namespace Sys2Proof.Tests

open Sys2Proof Sys2Proof.Machine

/-! ### Helpers -/

/-- The step answered a next state with this property. -/
def nextIs (o : Host.Outcome State Fault Refusal) (p : State → Bool) : Bool :=
  match o with
  | .next t => p t
  | .fault _ => false
  | .refused _ => false

/-- The step was refused for this reason. -/
def refusedAs (o : Host.Outcome State Fault Refusal) (r : Refusal) : Bool :=
  match o with
  | .next _ => false
  | .fault _ => false
  | .refused r' => decide (r' = r)

/-- The codec transaction of `i` delivers exactly `r`, with the extension commands admitted. -/
def gives (i : Instr) (r : CodecResult) : Bool :=
  nextIs (exec i { State.reset with config := { Config.default with extCommands := true } })
    fun t => decide (t.results = [.codec r])

/-- The result `Ok` of a wire image. -/
def wire (op : Byte) (params : List Byte) : CodecResult := .ok ⟨op, params⟩

/-- The result `Err(OutOfRange)`. -/
def tooFar : CodecResult := .err .outOfRange

/-- The machine after construction, one request presented. -/
def fresh (r : Request) : State := { State.reset with requests := [r] }

/-- The same in phase Ready. -/
def ready (r : Request) : State := { fresh r with phase := .ready }

/-- The same in phase Reset, with a recovery due or not. -/
def inReset (due : Bool) (r : Request) : State := { fresh r with phase := .reset, recoveryDue := due }

/-- The same in phase Ready with an 8 x 2 store of these bytes (cells) as store 0. -/
def ready8 (m : Memory) (r : Request) : State := { ready r with stores := [⟨8, 2, m⟩] }

/-- The extension commands admitted. -/
def extended : State := { State.reset with config := { Config.default with extCommands := true } }

/-! ### WellFormed: an ill-formed term for each check, beside the largest or smallest legal one -/

theorem test_wf_column : (Instr.setColumnAddress 119 119).wf = true ∧ (Instr.setColumnAddress 120 0).wf = false ∧
    (Instr.setColumnAddress 0 120).wf = false := by decide
theorem test_wf_row : (Instr.setRowAddress 127 127).wf = true ∧ (Instr.setRowAddress 128 0).wf = false ∧
    (Instr.setRowAddress 0 128).wf = false := by decide
theorem test_wf_start_line : (Instr.setStartLine 127).wf = true ∧ (Instr.setStartLine 128).wf = false := by decide
theorem test_wf_offset : (Instr.setDisplayOffset 127).wf = true ∧ (Instr.setDisplayOffset 128).wf = false := by decide
theorem test_wf_partial : (Instr.enablePartialDisplay 5 5).wf = true ∧ (Instr.enablePartialDisplay 47 16).wf = false ∧
    (Instr.enablePartialDisplay 0 128).wf = false ∧ (Instr.enablePartialDisplay 128 128).wf = false := by decide
theorem test_wf_phases : (Instr.setPhaseLengths 5 3).wf = true ∧ (Instr.setPhaseLengths 31 15).wf = true ∧
    (Instr.setPhaseLengths 4 3).wf = false ∧ (Instr.setPhaseLengths 32 3).wf = false ∧
    (Instr.setPhaseLengths 5 2).wf = false ∧ (Instr.setPhaseLengths 5 16).wf = false := by decide
theorem test_wf_clock : (Instr.setClockFoscDivset 15 10).wf = true ∧ (Instr.setClockFoscDivset 16 0).wf = false ∧
    (Instr.setClockFoscDivset 0 11).wf = false := by decide
theorem test_wf_precharge2 : (Instr.setSecondPrechargePeriod 15).wf = true ∧
    (Instr.setSecondPrechargePeriod 16).wf = false := by decide
theorem test_wf_voltages : (Instr.setPreChargeVoltage 31).wf = true ∧ (Instr.setPreChargeVoltage 32).wf = false ∧
    (Instr.setComDeselectVoltage 7).wf = true ∧ (Instr.setComDeselectVoltage 8).wf = false := by decide
theorem test_wf_master_contrast : (Instr.setMasterContrast 15).wf = true ∧
    (Instr.setMasterContrast 16).wf = false := by decide
theorem test_wf_mux : (Instr.setMuxRatio 16).wf = true ∧ (Instr.setMuxRatio 128).wf = true ∧
    (Instr.setMuxRatio 15).wf = false ∧ (Instr.setMuxRatio 129).wf = false ∧ (Instr.setMuxRatio 0).wf = false := by
  decide
theorem test_wf_table : (Instr.setGrayScaleTable (List.replicate 15 0xFF)).wf = true ∧
    (Instr.setGrayScaleTable (List.replicate 14 0)).wf = false ∧
    (Instr.setGrayScaleTable (List.replicate 16 0)).wf = false ∧ (Instr.setGrayScaleTable []).wf = false := by decide
theorem test_wf_dims : dimsWf 2 1 = true ∧ dimsWf 3 2 = false ∧ dimsWf 0 2 = false ∧ dimsWf 4 0 = false := by decide
theorem test_wf_config : Config.default.wf = true ∧ { Config.default with fbWidth := 255 }.wf = false := by decide
theorem test_admitted : Instr.admitted false .enableGrayScaleTable = false ∧
    Instr.admitted true .enableGrayScaleTable = true ∧ Instr.admitted false .writeRam = true := by decide

/-! ### Decode: one word per constructor -/

theorem test_decode_enableGrayScaleTable : decode true [0x00] = .instr .enableGrayScaleTable := by decide
theorem test_decode_setColumnAddress : decode false [0x15, 0x1C, 0x5B] = .instr (.setColumnAddress 28 91) := by decide
theorem test_decode_writeRam : decode false [0x5C] = .instr .writeRam := by decide
theorem test_decode_readRam : decode false [0x5D] = .instr .readRam := by decide
theorem test_decode_setRowAddress : decode false [0x75, 0x7F, 0x00] = .instr (.setRowAddress 127 0) := by decide
theorem test_decode_setRemapping : decode false [0xA0, 0x37, 0x01] =
    .instr (.setRemapping .vertical .reverse .forward .lastRowFirst .interlaced) := by decide
theorem test_decode_setStartLine : decode false [0xA1, 0x7F] = .instr (.setStartLine 127) := by decide
theorem test_decode_setDisplayOffset : decode false [0xA2, 0x7F] = .instr (.setDisplayOffset 127) := by decide
theorem test_decode_setDisplayModeAllOff : decode false [0xA4] = .instr .setDisplayModeAllOff := by decide
theorem test_decode_setDisplayModeAllOn : decode false [0xA5] = .instr .setDisplayModeAllOn := by decide
theorem test_decode_setDisplayModeNormal : decode false [0xA6] = .instr .setDisplayModeNormal := by decide
theorem test_decode_setDisplayModeInverse : decode false [0xA7] = .instr .setDisplayModeInverse := by decide
theorem test_decode_enablePartialDisplay : decode true [0xA8, 0x10, 0x2F] =
    .instr (.enablePartialDisplay 16 47) := by decide
theorem test_decode_disablePartialDisplay : decode false [0xA9] = .instr .disablePartialDisplay := by decide
theorem test_decode_functionSelect : decode false [0xAB, 0x01] = .instr (.functionSelect true) := by decide
theorem test_decode_setSleepModeTrue : decode false [0xAE] = .instr .setSleepModeTrue := by decide
theorem test_decode_setSleepModeFalse : decode false [0xAF] = .instr .setSleepModeFalse := by decide
theorem test_decode_setPhaseLengths : decode false [0xB1, 0x74] = .instr (.setPhaseLengths 9 7) := by decide
theorem test_decode_setClockFoscDivset : decode false [0xB3, 0x91] = .instr (.setClockFoscDivset 9 1) := by decide
theorem test_decode_setDisplayEnhancements : decode false [0xB4, 0xA0, 0xB5] =
    .instr (.setDisplayEnhancements true false) := by decide
theorem test_decode_setSecondPrechargePeriod : decode false [0xB6, 0x08] =
    .instr (.setSecondPrechargePeriod 8) := by decide
theorem test_decode_setGrayScaleTable :
    decode true [0xB8, 0x00, 0x01, 0x02, 0x03, 0x04, 0x05, 0x06, 0x07, 0x08, 0x09, 0x0A, 0x0B, 0x0C, 0x0D, 0x0E] =
      .instr (.setGrayScaleTable [0, 1, 2, 3, 4, 5, 6, 7, 8, 9, 10, 11, 12, 13, 14]) := by decide
theorem test_decode_setDefaultGrayScaleTable : decode false [0xB9] = .instr .setDefaultGrayScaleTable := by decide
theorem test_decode_setPreChargeVoltage : decode false [0xBB, 0x1F] = .instr (.setPreChargeVoltage 31) := by decide
theorem test_decode_setComDeselectVoltage : decode false [0xBE, 0x07] = .instr (.setComDeselectVoltage 7) := by decide
theorem test_decode_setContrastCurrent : decode false [0xC1, 0xFF] = .instr (.setContrastCurrent 255) := by decide
theorem test_decode_setMasterContrast : decode false [0xC7, 0x0F] = .instr (.setMasterContrast 15) := by decide
theorem test_decode_setMuxRatio : decode false [0xCA, 0x7F] = .instr (.setMuxRatio 128) := by decide
theorem test_decode_setCommandLock : decode false [0xFD, 0x12] = .instr (.setCommandLock false) := by decide

/-- R93: unknown byte 0 (and an extension opcode without the extensions), a wrong length, a byte outside the image. -/
theorem test_decode_rejects :
    decode true [] = .rejected .empty ∧
    decode true [0x01] = .rejected (.unknownOpcode 0x01) ∧
    decode false [0x00] = .rejected (.unknownOpcode 0x00) ∧
    decode true [0x15, 0x00] = .rejected (.wrongLength 0x15) ∧
    decode true [0x15, 0x78, 0x00] = .rejected (.badParameter 0x15) ∧
    decode true [0xA0, 0x08, 0x01] = .rejected (.badParameter 0xA0) ∧
    decode true [0xA0, 0x20, 0x11] = .rejected (.badParameter 0xA0) ∧
    decode true [0xB1, 0x12] = .rejected (.badParameter 0xB1) ∧
    decode true [0xCA, 0x00] = .rejected (.badParameter 0xCA) ∧
    decode true [0xFD, 0x13] = .rejected (.badParameter 0xFD) := by decide

/-- The opcode table's numbers: byte 0 is the most significant. -/
theorem test_table_words :
    decodeTableWord 24 0x150000 = some (.setColumnAddress 0 0) ∧ decodeTableWord 8 0x5C = some .writeRam ∧
    decodeTableWord 24 0xA00001 = some (.setRemapping .horizontal .forward .reverse .firstRowFirst .progressive) ∧
    decodeTableWord 16 0xCA00 = none ∧ decodeTableWord 16 0xCA0F = some (.setMuxRatio 16) := by decide

/-! ### The codec: vectors S1, S2, T-A, T-G, T-P, T-C -/

theorem test_exec_enableGrayScaleTable : gives .enableGrayScaleTable (wire 0x00 []) = true := by decide
theorem test_exec_setColumnAddress : gives (.setColumnAddress 119 0) (wire 0x15 [0x77, 0x00]) = true ∧
    gives (.setColumnAddress 0 120) tooFar = true := by decide
theorem test_exec_ramCommands : gives .writeRam (wire 0x5C []) = true ∧ gives .readRam (wire 0x5D []) = true := by
  decide
theorem test_exec_setRowAddress : gives (.setRowAddress 120 120) (wire 0x75 [0x78, 0x78]) = true ∧
    gives (.setRowAddress 128 0) tooFar = true := by decide
theorem test_exec_setRemapping :
    gives (.setRemapping .horizontal .forward .forward .lastRowFirst .dualProgressive) (wire 0xA0 [0x14, 0x11]) = true ∧
    gives (.setRemapping .horizontal .reverse .forward .firstRowFirst .dualProgressive)
      (wire 0xA0 [0x06, 0x11]) = true := by decide
theorem test_exec_setStartLine : gives (.setStartLine 127) (wire 0xA1 [0x7F]) = true ∧
    gives (.setStartLine 128) tooFar = true := by decide
theorem test_exec_setDisplayOffset : gives (.setDisplayOffset 127) (wire 0xA2 [0x7F]) = true ∧
    gives (.setDisplayOffset 128) tooFar = true := by decide
theorem test_exec_displayModes :
    gives .setDisplayModeAllOff (wire 0xA4 []) = true ∧ gives .setDisplayModeAllOn (wire 0xA5 []) = true ∧
    gives .setDisplayModeNormal (wire 0xA6 []) = true ∧ gives .setDisplayModeInverse (wire 0xA7 []) = true := by decide
theorem test_exec_partialDisplay :
    gives (.enablePartialDisplay 5 5) (wire 0xA8 [0x05, 0x05]) = true ∧
    gives (.enablePartialDisplay 47 16) tooFar = true ∧ gives .disablePartialDisplay (wire 0xA9 []) = true := by decide
theorem test_exec_functionSelect : gives (.functionSelect true) (wire 0xAB [0x01]) = true ∧
    gives (.functionSelect false) (wire 0xAB [0x00]) = true := by decide
theorem test_exec_sleepModes : gives .setSleepModeTrue (wire 0xAE []) = true ∧
    gives .setSleepModeFalse (wire 0xAF []) = true := by decide
theorem test_exec_setPhaseLengths : gives (.setPhaseLengths 6 3) (wire 0xB1 [0x32]) = true ∧
    gives (.setPhaseLengths 0 0) tooFar = true := by decide
theorem test_exec_setPhaseLengths_top : gives (.setPhaseLengths 31 15) (wire 0xB1 [0xFF]) = true ∧
    gives (.setPhaseLengths 32 3) tooFar = true := by decide
theorem test_exec_setClockFoscDivset : gives (.setClockFoscDivset 15 10) (wire 0xB3 [0xFA]) = true ∧
    gives (.setClockFoscDivset 0 11) tooFar = true := by decide
theorem test_exec_setDisplayEnhancements :
    gives (.setDisplayEnhancements true false) (wire 0xB4 [0xA0, 0xB5]) = true ∧
    gives (.setDisplayEnhancements false true) (wire 0xB4 [0xA2, 0xFD]) = true := by decide
theorem test_exec_setSecondPrechargePeriod : gives (.setSecondPrechargePeriod 15) (wire 0xB6 [0x0F]) = true ∧
    gives (.setSecondPrechargePeriod 16) tooFar = true := by decide
theorem test_exec_setGrayScaleTable :
    gives (.setGrayScaleTable (List.replicate 15 0xFF)) (wire 0xB8 (List.replicate 15 0xFF)) = true ∧
    gives (.setGrayScaleTable [0, 0]) (.err .badTableLength) = true := by decide
theorem test_exec_setDefaultGrayScaleTable : gives .setDefaultGrayScaleTable (wire 0xB9 []) = true := by decide
theorem test_exec_setPreChargeVoltage : gives (.setPreChargeVoltage 31) (wire 0xBB [0x1F]) = true ∧
    gives (.setPreChargeVoltage 32) tooFar = true := by decide
theorem test_exec_setComDeselectVoltage : gives (.setComDeselectVoltage 7) (wire 0xBE [0x07]) = true ∧
    gives (.setComDeselectVoltage 8) tooFar = true := by decide
theorem test_exec_setContrastCurrent : gives (.setContrastCurrent 159) (wire 0xC1 [0x9F]) = true := by decide
theorem test_exec_setMasterContrast : gives (.setMasterContrast 15) (wire 0xC7 [0x0F]) = true ∧
    gives (.setMasterContrast 16) tooFar = true := by decide
theorem test_exec_setMuxRatio : gives (.setMuxRatio 128) (wire 0xCA [0x7F]) = true ∧
    gives (.setMuxRatio 129) tooFar = true := by decide
theorem test_exec_setMuxRatio_low : gives (.setMuxRatio 16) (wire 0xCA [0x0F]) = true ∧
    gives (.setMuxRatio 15) tooFar = true ∧ gives (.setMuxRatio 0) tooFar = true := by decide
theorem test_exec_setCommandLock : gives (.setCommandLock true) (wire 0xFD [0x16]) = true ∧
    gives (.setCommandLock false) (wire 0xFD [0x12]) = true := by decide

/-! ### The Frame Store: vectors S5, T-F -/

theorem test_setPixel_low : nextIs (step (ready8 [(0, 0x50)] (.frameStore (.setPixel 0 1 0 9))))
    (fun t => decide (t.stores = [⟨8, 2, [(0, 0x59)]⟩] ∧ t.results = [])) = true := by decide
theorem test_setPixel_high : nextIs (step (ready8 [(0, 0x59)] (.frameStore (.setPixel 0 2 1 10))))
    (fun t => decide (t.stores = [⟨8, 2, [(0, 0x59), (5, 0xA0)]⟩])) = true := by decide
theorem test_setPixel_clips_x : nextIs (step (ready8 [(0, 0x59)] (.frameStore (.setPixel 0 8 0 15))))
    (fun t => decide (t.stores = [⟨8, 2, [(0, 0x59)]⟩])) = true := by decide
theorem test_setPixel_clips_y : nextIs (step (ready8 [(0, 0x59)] (.frameStore (.setPixel 0 0 2 15))))
    (fun t => decide (t.stores = [⟨8, 2, [(0, 0x59)]⟩])) = true := by decide
theorem test_setPixel_zero : nextIs (step (ready8 [(0, 0x50)] (.frameStore (.setPixel 0 0 0 0))))
    (fun t => decide (t.stores = [⟨8, 2, []⟩])) = true := by decide
theorem test_getPixel : nextIs (step (ready8 [(0, 0x09)] (.frameStore (.getPixel 0 1 0))))
    (fun t => decide (t.results = [.pixel (some 9)])) = true := by decide
theorem test_getPixel_outside : nextIs (step (ready8 [(0, 0x09)] (.frameStore (.getPixel 0 8 0))))
    (fun t => decide (t.results = [.pixel none])) = true := by decide
theorem test_readout : nextIs (step (ready8 [(0, 0x09), (5, 0xA0), (7, 0x0F)] (.frameStore (.readout 0))))
    (fun t => decide (t.results = [.bytes [0x09, 0, 0, 0, 0, 0xA0, 0, 0x0F]])) = true := by decide
theorem test_clear : nextIs (step (ready8 [(0, 0x09)] (.frameStore (.clear 0 7))))
    (fun t => (t.stores.map FrameStore.readout) == [List.replicate 8 0x77]) = true := by decide
theorem test_clear_zero : nextIs (step (ready8 [(0, 0x09)] (.frameStore (.clear 0 0))))
    (fun t => decide (t.stores = [.new 8 2])) = true := by decide
theorem test_dims : nextIs (step (fresh (.frameStore (.dims 0))))
    (fun t => decide (t.results = [.dims 256 64])) = true := by decide
theorem test_setPixel_last : nextIs (step (fresh (.frameStore (.setPixel 0 255 63 1))))
    (fun t => decide (t.stores = [⟨256, 64, [(8191, 0x01)]⟩])) = true := by decide
theorem test_construct : nextIs (step (fresh (.frameStore (.construct 4 2))))
    (fun t => decide (t.stores = [.new 256 64, .new 4 2] ∧ t.results = [.frameStore 1])) = true ∧
    refusedAs (step (fresh (.frameStore (.construct 3 2)))) .illFormedDimensions = true := by decide
/-- R8: an odd width, a zero width and a zero height are refused at construction of the machine. -/
theorem test_construct_machine :
    nextIs (State.construct { Config.default with fbWidth := 2, fbHeight := 1 })
      (fun t => decide (t.stores = [.new 2 1])) = true ∧
    refusedAs (State.construct { Config.default with fbWidth := 255 }) .illFormedDimensions = true ∧
    refusedAs (State.construct { Config.default with fbWidth := 0 }) .illFormedDimensions = true ∧
    refusedAs (State.construct { Config.default with fbHeight := 0 }) .illFormedDimensions = true := by decide
theorem test_no_store : refusedAs (step (fresh (.frameStore (.dims 1)))) .noSuchFrameStore = true := by decide

/-! ### The session: vectors T-S, T-W, T-E, programs P1, P2, P5 -/

theorem test_send : nextIs (step (ready (.session (.send (.setMuxRatio 64)))))
    (fun t => decide (t.trace = [.pin .dc .low, .tx (.driven .low) [0xCA], .pin .dc .high, .tx (.driven .high) [0x3F]] ∧
      t.results = [.session .ok])) = true := by decide
/-- R113, R182: the codec encodes ReadRam, no session operation sends it. -/
theorem test_send_readRam :
    refusedAs (step (ready (.session (.send .readRam)))) .readRamNotSent = true ∧
    refusedAs (step (inReset false (.session (.send .readRam)))) .readRamNotSent = true := by decide
theorem test_send_bad : nextIs (step (ready (.session (.send (.setMuxRatio 129)))))
    (fun t => decide (t.trace = [] ∧ t.results = [.session (.err .outOfRange)] ∧ t.phase = .ready)) = true := by decide
theorem test_send_second_fails :
    nextIs (step { ready (.session (.send (.setMuxRatio 64))) with txReplies := [.ok, .failed 7] })
      (fun t => decide (t.trace = busCommand 0xCA [0x3F] ∧ t.phase = .uninitialized ∧
        t.results = [.session (.err (.communicationFailure 7))])) = true := by decide
theorem test_writeData_empty : nextIs (step (ready (.session (.writeData []))))
    (fun t => decide (t.trace = [.pin .dc .high, .tx (.driven .high) []])) = true := by decide
theorem test_flushBuffer : nextIs (step (ready (.session (.flushBuffer [0x59, 0x00]))))
    (fun t => decide (t.trace = [.pin .dc .low, .tx (.driven .low) [0x5C], .pin .dc .high,
      .tx (.driven .high) [0x59, 0x00]])) = true := by decide
theorem test_hardReset : nextIs (step (fresh (.session .hardReset)))
    (fun t => decide (t.phase = .reset ∧ t.trace =
      [.pin .res .low, .delay 1, .pin .res .high, .delay 1, .pin .pwr .high, .delay 1])) = true := by decide
theorem test_window_W1 : nextIs (step (ready (.session (.setAddressWindow 0 0 256 64))))
    (fun t => decide (t.trace = busCommand 0x15 [0x1C, 0x5B] ++ busCommand 0x75 [0x00, 0x3F])) = true := by decide
theorem test_window_W3 : nextIs (step (ready (.session (.setAddressWindow 0 0 480 129))))
    (fun t => decide (t.trace = [] ∧ t.results = [.session (.err .outOfRange)] ∧ t.phase = .ready)) = true := by decide
theorem test_window_W4 : nextIs (step (ready (.session (.setAddressWindow 8 0 480 64))))
    (fun t => decide (t.trace = [] ∧ t.results = [.session (.err .outOfRange)] ∧ t.phase = .ready)) = true := by decide
theorem test_window_W9 : nextIs (step (ready (.session (.setAddressWindow 0 0 2 1))))
    (fun t => decide (t.trace = busCommand 0x15 [0x3B, 0x3A] ++ busCommand 0x75 [0x00, 0x00])) = true := by decide
theorem test_window_W12 : nextIs (step (ready (.session (.setAddressWindow 224 0 256 64))))
    (fun t => decide (t.trace = busCommand 0x15 [0x38, 0x77] ++ busCommand 0x75 [0x00, 0x3F])) = true := by decide
theorem test_window_refused :
    refusedAs (step (ready (.session (.setAddressWindow 0 0 481 64)))) .windowOutsideFormula = true ∧
    refusedAs (step (ready (.session (.setAddressWindow 0 0 256 0)))) .windowOutsideFormula = true := by decide
theorem test_setOrientation : nextIs (step (ready (.session (.setOrientation .inverted))))
    (fun t => decide (t.trace = busCommand 0xA0 [0x06, 0x11] ∧ t.orientation = .inverted)) = true := by decide
theorem test_flushFrame : nextIs (step (ready8 [(0, 0x59), (7, 0x0F)] (.session (.flushFrame 0))))
    (fun t => decide (t.trace = busCommand 0x15 [0x3B, 0x3C] ++ busCommand 0x75 [0x00, 0x01] ++ busC 0x5C ++
      busD [0x59, 0, 0, 0, 0, 0, 0, 0x0F] ∧ t.stores = [⟨8, 2, [(0, 0x59), (7, 0x0F)]⟩])) = true := by decide
theorem test_flushFrame_phase :
    refusedAs (step (fresh (.session (.flushFrame 0)))) .wrongPhase = true := by decide
theorem test_setOrientation_second_fails :
    nextIs (step { ready (.session (.setOrientation .inverted)) with txReplies := [.ok, .failed 3] })
      (fun t => decide (t.trace = busCommand 0xA0 [0x06, 0x11] ∧ t.orientation = .inverted ∧
        t.phase = .uninitialized)) = true := by decide
/-- P1: the opcode bytes in their order, 76 events, Ready. -/
theorem test_boot : nextIs (step (fresh (.session .initializeSession)))
    (fun t => decide (t.phase = .ready ∧ t.results = [.session .ok] ∧ t.trace.length = 76 ∧
      t.trace.filterMap (fun e => match e with | .tx (.driven .low) bs => some bs | _ => none) =
        [[0xFD], [0xAE], [0xA0], [0xA1], [0xA2], [0xA6], [0xAB], [0xB1], [0xB3], [0xB4], [0xB6], [0xB9], [0xBB],
         [0xBE], [0xC1], [0xC7], [0xCA], [0xA9], [0xAF], [0xA0]])) = true := by decide
/-- P5 (a). -/
theorem test_boot_bad_mux :
    nextIs (step { fresh (.session .initializeSession) with
        config := { Config.default with init := { InitParams.example1 with mux := 129 } } })
      (fun t => decide (t.phase = .uninitialized ∧ t.results = [.session (.err .outOfRange)] ∧
        t.trace.drop (t.trace.length - 4) = busCommand 0xC7 [0x0F])) = true := by decide
/-- P5 (b). -/
theorem test_boot_fourth_fails :
    nextIs (step { fresh (.session .initializeSession) with txReplies := [.ok, .ok, .ok, .failed 1] })
      (fun t => decide (t.phase = .uninitialized ∧ t.results = [.session (.err (.communicationFailure 1))] ∧
        t.trace.drop 6 = busCommand 0xFD [0x12] ++ busC 0xAE ++ busC 0xA0)) = true := by decide
/-- R180: in Reset a caller may build its own initialization; U3: not while a recovery is due. -/
theorem test_send_in_reset :
    nextIs (step (inReset false (.session (.send (.setCommandLock false)))))
      (fun t => decide (t.trace = busCommand 0xFD [0x12] ∧ t.phase = .reset)) = true ∧
    refusedAs (step (inReset true (.session (.send (.setCommandLock false))))) .recoveryDue = true := by decide
/-- U3: a failed write leaves the recovery due, hard_reset does not end it. -/
theorem test_recovery_due :
    nextIs (step { ready (.session (.writeData [])) with txReplies := [.failed 1] })
      (fun t => decide (t.phase = .uninitialized ∧ t.recoveryDue = true)) = true ∧
    nextIs (step { fresh (.session .hardReset) with recoveryDue := true })
      (fun t => decide (t.phase = .reset ∧ t.recoveryDue = true)) = true := by decide
/-- P5 (c), R211: a successful initialize ends it. -/
theorem test_recovery :
    nextIs (step { fresh (.session .initializeSession) with recoveryDue := true })
      (fun t => decide (t.phase = .ready ∧ t.recoveryDue = false ∧ t.results = [.session .ok])) = true := by decide
/-- R212: a cancelled delay is no failed transmission. -/
theorem test_cancelled_delay :
    nextIs (step { fresh (.session .hardReset) with delayReplies := [.cancelled] })
      (fun t => decide (t.phase = .uninitialized ∧ t.recoveryDue = false ∧ t.results = [])) = true := by decide
/-- The numbers of R200. -/
theorem test_codes : ErrorKind.outOfRange.code = 1 ∧ ErrorKind.badTableLength.code = 2 ∧
    (ErrorKind.communicationFailure 9).code = 3 ∧ ErrorKind.pinFailure.code = 4 ∧ SessionResult.ok.code = 0 := by decide

/-! ### Witnesses: a concrete state and operands that meet the hypotheses of each statement -/

theorem test_witness_ExtensionCommandsResult : extended.config.extCommands = true := by decide
theorem test_witness_ExtensionCommandsAbsent : State.reset.config.extCommands = false := by decide
theorem test_witness_ExecFrame : ∃ t, exec (.setMuxRatio 129) State.reset = .next t := ⟨_, rfl⟩
theorem test_witness_CodecErrorCauses :
    Instr.admitted extended.config.extCommands (.setGrayScaleTable [0, 0]) = true ∧
    Instr.admitted State.reset.config.extCommands (.setMuxRatio 129) = true ∧
    OutOfRangeCause (.setMuxRatio 129) ∧ ¬ OutOfRangeCause (.setMuxRatio 128) :=
  ⟨by decide, by decide, .inr (by decide), fun h => by rcases h with h | h <;> revert h <;> decide⟩
theorem test_witness_ExecReturnsWireImage :
    Instr.admitted State.reset.config.extCommands (.setColumnAddress 119 119) = true ∧
    (Instr.setColumnAddress 119 119).wf = true := by decide
theorem test_witness_DecodeOfEncode :
    Instr.admitted false (.setPhaseLengths 6 15) = true ∧ (Instr.setPhaseLengths 6 15).wf = true ∧
    Instr.admitted false (.setMuxRatio 16) = true ∧ (Instr.setMuxRatio 16).wf = true ∧
    ∀ phase1 phase2, Instr.setMuxRatio 16 ≠ .setPhaseLengths phase1 phase2 :=
  ⟨by decide, by decide, by decide, by decide, fun _ _ h => Instr.noConfusion h⟩
theorem test_witness_EncodeOfDecode : decode false [0xB1, 0x32] = .instr (.setPhaseLengths 5 3) := by decide
theorem test_witness_DecodeRefusesUnknownOpcode : ¬ IsOpcode false 0xA8 ∧ ¬ IsOpcode true 0xFF := by
  unfold IsOpcode; decide
theorem test_witness_LengthFromOpcode : (Instr.setMuxRatio 16).wf = true ∧ (Instr.setMuxRatio 128).wf = true ∧
    (Instr.setMuxRatio 16).opcode = (Instr.setMuxRatio 128).opcode := by decide
theorem test_witness_EncodeInjectiveUpToPhasePairs :
    (Instr.setPhaseLengths 5 3).wf = true ∧ (Instr.setPhaseLengths 6 3).wf = true ∧
    encode (.setPhaseLengths 5 3) = encode (.setPhaseLengths 6 3) := by decide
theorem test_witness_StepRunsPresentedIntent :
    (fresh (.encode .writeRam)).requests = [.encode .writeRam] ∧ decodeTableWord 8 0x01 = none ∧
    decodeTableWord 24 0xA80000 = some (.enablePartialDisplay 0 0) ∧ State.reset.requests = [] := by decide
theorem test_witness_ConstructionState : State.reset.readByte 0 8191 = some 0 ∧ State.reset.readByte 0 8192 = none ∧
    (256 % 2 = 0 ∧ 2 ≤ 256 ∧ 1 ≤ 64) ∧ ¬ (3 % 2 = 0 ∧ 2 ≤ 3 ∧ 1 ≤ 1) ∧ ¬ (0 % 2 = 0 ∧ 2 ≤ 0 ∧ 1 ≤ 1) ∧
    ¬ (2 % 2 = 0 ∧ 2 ≤ 2 ∧ 1 ≤ 0) := by decide
theorem test_witness_ConstructionMeetsInvariants : ∃ s, State.construct Config.default = .next s := ⟨_, rfl⟩

/-- An 8 x 2 store that meets every hypothesis on stores. -/
theorem test_witness_store : (FrameStore.mk 8 2 [(0, 0x59), (7, 0x0F)]).wf := by decide
/-- In bounds at the last pixel, and outside at each edge. -/
theorem test_witness_SetPixelResult :
    (ready8 [(0, 0x59)] (.frameStore (.setPixel 0 7 1 15))).requests = [.frameStore (.setPixel 0 7 1 15)] ∧
    (ready8 [(0, 0x59)] (.frameStore (.setPixel 0 7 1 15))).stores[0]? = some ⟨8, 2, [(0, 0x59)]⟩ ∧
    (FrameStore.mk 8 2 [(0, 0x59)]).wf ∧ (7 < 8 ∧ 1 < 2) ∧ ¬ (8 < 8 ∧ 0 < 2) ∧ ¬ (0 < 8 ∧ 2 < 2) := by decide
theorem test_witness_ClearResult :
    (ready8 [(0, 0x59)] (.frameStore (.clear 0 7))).requests = [.frameStore (.clear 0 7)] ∧
    (ready8 [(0, 0x59)] (.frameStore (.clear 0 7))).stores[0]? = some ⟨8, 2, [(0, 0x59)]⟩ := by decide
theorem test_witness_GetPixelResult :
    (ready8 [(0, 0x59)] (.frameStore (.getPixel 0 7 1))).requests = [.frameStore (.getPixel 0 7 1)] ∧
    (ready8 [(0, 0x59)] (.frameStore (.getPixel 0 7 1))).stores[0]? = some ⟨8, 2, [(0, 0x59)]⟩ ∧
    (FrameStore.mk 8 2 [(0, 0x59)]).wf ∧ (ready8 [(0, 0x59)] (.frameStore (.getPixel 0 7 1))).pixel 0 7 1 = some 0 ∧
    (ready8 [(0, 0x59)] (.frameStore (.getPixel 0 8 1))).pixel 0 8 1 = none := by decide
theorem test_witness_DimsResult : (fresh (.frameStore (.dims 0))).requests = [.frameStore (.dims 0)] ∧
    (fresh (.frameStore (.dims 0))).stores[0]? = some (.new 256 64) := by decide
theorem test_witness_ReadoutResult : (ready8 [] (.frameStore (.readout 0))).requests = [.frameStore (.readout 0)] ∧
    (ready8 [] (.frameStore (.readout 0))).stores[0]? = some (.new 8 2) := by decide
theorem test_witness_SetPixelReadsBack :
    (ready8 [] (.frameStore (.setPixel 0 7 1 15))).requests = [.frameStore (.setPixel 0 7 1 15)] ∧
    (ready8 [] (.frameStore (.setPixel 0 7 1 15))).stores[0]? = some (.new 8 2) ∧ (FrameStore.new 8 2).wf ∧
    7 < (FrameStore.new 8 2).width ∧ 1 < (FrameStore.new 8 2).height := by decide
theorem test_witness_ClearReadsBack : (ready8 [] (.frameStore (.clear 0 7))).requests = [.frameStore (.clear 0 7)] ∧
    (ready8 [] (.frameStore (.clear 0 7))).stores[0]? = some (.new 8 2) ∧ (FrameStore.new 8 2).wf := by decide
theorem test_witness_BytePacksTwoPixels : (ready8 [(7, 0x0F)] (.frameStore (.dims 0))).stores[0]? =
    some ⟨8, 2, [(7, 0x0F)]⟩ ∧ (FrameStore.mk 8 2 [(7, 0x0F)]).wf ∧ 7 < 8 * 2 / 2 := by decide
theorem test_witness_PixelMapBijective : 8 % 2 = 0 ∧ 2 ≤ 8 ∧ 1 ≤ 2 ∧ Operands.byteIndex 8 6 1 = 7 ∧
    Operands.byteIndex 8 7 1 = 7 ∧ 7 < 8 * 2 / 2 := by decide
theorem test_witness_ConstructFrameStoreResult :
    (fresh (.frameStore (.construct 2 1))).requests = [.frameStore (.construct 2 1)] ∧
    (2 % 2 = 0 ∧ 2 ≤ 2 ∧ 1 ≤ 1) ∧ ¬ (3 % 2 = 0 ∧ 2 ≤ 3 ∧ 1 ≤ 1) ∧ ¬ (2 % 2 = 0 ∧ 2 ≤ 2 ∧ 1 ≤ 0) := by decide
theorem test_witness_StepNeverFaults : (fresh (.frameStore (.setPixel 0 255 63 1))).StoresWf := by
  unfold State.StoresWf; decide

theorem test_witness_HardResetResult : (fresh (.session .hardReset)).requests = [.session .hardReset] ∧
    ∀ r ∈ (fresh (.session .hardReset)).delayReplies.take 3, r = DelayReply.done := by decide
theorem test_witness_SendResult :
    (ready (.session (.send .writeRam))).requests = [.session (.send .writeRam)] ∧
    (ready (.session (.send .writeRam))).phase = .ready ∧
    (inReset false (.session (.send .writeRam))).phase = .reset ∧
    (inReset false (.session (.send .writeRam))).recoveryDue = false ∧
    Instr.admitted (ready (.session (.send .writeRam))).config.extCommands .writeRam = true ∧
    Instr.writeRam ≠ .readRam ∧ Instr.wf .writeRam = true ∧
    ∀ r ∈ (ready (.session (.send .writeRam))).txReplies.take (if Instr.params .writeRam = [] then 1 else 2),
      r = TxReply.ok := by decide
theorem test_witness_SendRejectedByCodec :
    (ready (.session (.send (.setMuxRatio 129)))).requests = [.session (.send (.setMuxRatio 129))] ∧
    (ready (.session (.send (.setMuxRatio 129)))).phase = .ready ∧
    (inReset false (.session (.send (.setMuxRatio 129)))).phase = .reset ∧
    (inReset false (.session (.send (.setMuxRatio 129)))).recoveryDue = false ∧
    Instr.admitted (ready (.session (.send (.setMuxRatio 129)))).config.extCommands (.setMuxRatio 129) = true ∧
    (Instr.setMuxRatio 129).wf = false := by decide
/-- The hypotheses, and the four replies of the four clauses. -/
theorem test_witness_SendTransportStops :
    (ready (.session (.send (.setMuxRatio 64)))).requests = [.session (.send (.setMuxRatio 64))] ∧
    (ready (.session (.send (.setMuxRatio 64)))).phase = .ready ∧
    (inReset false (.session (.send (.setMuxRatio 64)))).phase = .reset ∧
    (inReset false (.session (.send (.setMuxRatio 64)))).recoveryDue = false ∧
    Instr.admitted false (.setMuxRatio 64) = true ∧ Instr.setMuxRatio 64 ≠ .readRam ∧
    (Instr.setMuxRatio 64).wf = true ∧
    (Instr.setMuxRatio 64).params ≠ [] ∧
    [TxReply.failed 1, .ok] = .failed 1 :: [.ok] ∧ [TxReply.cancelled, .ok] = .cancelled :: [.ok] ∧
    [TxReply.ok, .failed 1, .ok] = .ok :: .failed 1 :: [.ok] ∧
    [TxReply.ok, .cancelled, .ok] = .ok :: .cancelled :: [.ok] := by decide
theorem test_witness_WriteDataResult :
    (ready (.session (.writeData []))).requests = [.session (.writeData [])] ∧
    (ready (.session (.writeData []))).phase = .ready ∧
    ∀ r ∈ (ready (.session (.writeData []))).txReplies.take 1, r = TxReply.ok := by decide
theorem test_witness_FlushBufferResult :
    (ready (.session (.flushBuffer [0x59]))).requests = [.session (.flushBuffer [0x59])] ∧
    (ready (.session (.flushBuffer [0x59]))).phase = .ready ∧
    ∀ r ∈ (ready (.session (.flushBuffer [0x59]))).txReplies.take 2, r = TxReply.ok := by decide
theorem test_witness_SetOrientationResult :
    (ready (.session (.setOrientation .inverted))).requests = [.session (.setOrientation .inverted)] ∧
    (ready (.session (.setOrientation .inverted))).phase = .ready ∧
    ∀ r ∈ (ready (.session (.setOrientation .inverted))).txReplies.take 2, r = TxReply.ok := by decide
theorem test_witness_SetOrientationFailure :
    (ready (.session (.setOrientation .inverted))).requests = [.session (.setOrientation .inverted)] ∧
    (ready (.session (.setOrientation .inverted))).phase = .ready ∧
    { ready (.session (.setOrientation .inverted)) with txReplies := [.failed 3] }.txReplies = .failed 3 :: [] ∧
    { ready (.session (.setOrientation .inverted)) with txReplies := [.cancelled] }.txReplies = .cancelled :: [] ∧
    { ready (.session (.setOrientation .inverted)) with txReplies := [.ok, .failed 3] }.txReplies =
      .ok :: .failed 3 :: [] ∧
    { ready (.session (.setOrientation .inverted)) with txReplies := [.ok, .cancelled] }.txReplies =
      .ok :: .cancelled :: [] := by decide
/-- Both outcomes at the boundary: columns up to 119, rows up to 127, then one more of each (T-W2, T-W3, T-W12,
T-W13). -/
theorem test_witness_SetAddressWindowResult :
    (ready (.session (.setAddressWindow 0 0 480 128))).requests = [.session (.setAddressWindow 0 0 480 128)] ∧
    (ready (.session (.setAddressWindow 0 0 480 128))).phase = .ready ∧ 480 ≤ 480 ∧ 1 ≤ 128 ∧
    ¬ ((480 - 480 + 0) / 2 / 4 > 119 ∨ (480 - 480 + 0) / 2 / 4 + 480 / 4 - 1 > 119 ∨ 0 > 127 ∨ 0 + 128 - 1 > 127) ∧
    0 + 129 - 1 > 127 ∧ ¬ ((480 - 256 + 224) / 2 / 4 + 256 / 4 - 1 > 119) ∧
    (480 - 256 + 232) / 2 / 4 + 256 / 4 - 1 > 119 ∧
    ∀ r ∈ (ready (.session (.setAddressWindow 0 0 480 128))).txReplies.take 4, r = TxReply.ok := by decide
/-- 128 rows go, 129 rows do not. -/
theorem test_witness_FlushFrameResult :
    (ready8 [] (.session (.flushFrame 0))).requests = [.session (.flushFrame 0)] ∧
    (ready8 [] (.session (.flushFrame 0))).phase = .ready ∧
    (ready8 [] (.session (.flushFrame 0))).stores[0]? = some (.new 8 2) ∧ (FrameStore.new 8 2).wf ∧
    (FrameStore.new 480 128).wf ∧ (FrameStore.new 2 129).wf ∧ (FrameStore.new 480 128).width ≤ 480 ∧
    (FrameStore.new 480 128).height ≤ 128 ∧ ¬ (FrameStore.new 2 129).height ≤ 128 ∧
    ∀ r ∈ (ready8 [] (.session (.flushFrame 0))).txReplies.take 6, r = TxReply.ok := by decide
theorem test_witness_InitializeResult :
    (fresh (.session .initializeSession)).requests = [.session .initializeSession] ∧
    (∀ r ∈ (fresh (.session .initializeSession)).delayReplies.take 3, r = DelayReply.done) ∧
    (∀ r ∈ (fresh (.session .initializeSession)).txReplies.take 35, r = TxReply.ok) ∧
    ∀ i ∈ initList (fresh (.session .initializeSession)).config.init (fresh (.session .initializeSession)).inverted,
      i.wf = true := by decide
theorem test_witness_InitializeRejectsBadParameter :
    (fresh (.session .initializeSession)).requests = [.session .initializeSession] ∧
    (∀ r ∈ (fresh (.session .initializeSession)).delayReplies.take 3, r = DelayReply.done) ∧
    (∀ r ∈ (fresh (.session .initializeSession)).txReplies.take 35, r = TxReply.ok) ∧
    initList { InitParams.example1 with mux := 129 } false =
      (initList InitParams.example1 false).take 16 ++
        .setMuxRatio 129 :: [.disablePartialDisplay, .setSleepModeFalse] ∧
    (∀ i ∈ (initList InitParams.example1 false).take 16, i.wf = true) ∧ (Instr.setMuxRatio 129).wf = false := by decide
theorem test_witness_HardResetCancelled :
    (fresh (.session .hardReset)).requests = [.session .hardReset] ∧ 0 < 3 ∧ 2 < 3 ∧
    { fresh (.session .hardReset) with delayReplies := [.cancelled] }.delayReplies =
      List.replicate 0 .done ++ .cancelled :: [] ∧
    { fresh (.session .hardReset) with delayReplies := [.done, .done, .cancelled] }.delayReplies =
      List.replicate 2 .done ++ .cancelled :: [] := by decide
/-- Each of the four ends: Ok, a transport error, a validation error, a cancellation. -/
theorem test_witness_SessionPhaseTable :
    (∃ t, step (fresh (.session .hardReset)) = .next t) ∧
    (∃ t, step { ready (.session (.writeData [])) with txReplies := [.failed 1] } = .next t) ∧
    (∃ t, step (ready (.session (.setAddressWindow 8 0 480 64))) = .next t) ∧
    ∃ t, step { ready (.session (.writeData [])) with txReplies := [.cancelled] } = .next t :=
  ⟨⟨_, rfl⟩, ⟨_, rfl⟩, ⟨_, rfl⟩, ⟨_, rfl⟩⟩
/-- The ten clauses. -/
theorem test_witness_RefusedOperations :
    (Instr.admitted (fresh (.session (.send .writeRam))).config.extCommands .writeRam = true ∧
      (fresh (.session (.send .writeRam))).phase = .uninitialized) ∧
    Instr.admitted (ready (.session (.send .enableGrayScaleTable))).config.extCommands .enableGrayScaleTable = false ∧
    (fresh (.session (.writeData []))).phase ≠ .ready ∧
    ((ready (.session (.setAddressWindow 0 0 481 1))).phase = .ready ∧ (480 < 481 ∨ 1 = 0)) ∧
    (480 < (FrameStore.new 482 1).width ∨ (FrameStore.new 482 1).height = 0) ∧
    (ready (.session (.flushFrame 1))).stores[1]? = none ∧
    (fresh (.frameStore (.clear 1 7))).stores[1]? = none ∧
    (Instr.admitted (inReset true (.session (.send .writeRam))).config.extCommands .writeRam = true ∧
      (inReset true (.session (.send .writeRam))).phase = .reset ∧
      (inReset true (.session (.send .writeRam))).recoveryDue = true) ∧
    (inReset true (.session (.send .writeRam))).ReadyRecovered ∧
    SessionOp.send .writeRam ≠ .hardReset ∧ SessionOp.send .writeRam ≠ .initializeSession ∧
    (ready (.session (.send .readRam))).phase = .ready ∧ (inReset false (.session (.send .readRam))).phase = .reset ∧
    (inReset false (.session (.send .readRam))).recoveryDue = false := by
  unfold State.ReadyRecovered; decide

/-! ### Witnesses for the invariants: a state that has the invariant and takes a step -/

theorem test_witness_StepKeepsStoresWf : (ready8 [(0, 0x59)] (.frameStore (.setPixel 0 7 1 15))).StoresWf ∧
    ∃ t, step (ready8 [(0, 0x59)] (.frameStore (.setPixel 0 7 1 15))) = .next t :=
  ⟨by unfold State.StoresWf; decide, _, rfl⟩
theorem test_witness_StepKeepsBusDiscipline : BusDisciplined (ready (.session (.send .writeRam))).trace ∧
    (ready (.session (.send .writeRam))).PinsAgree ∧ (ready (.session (.send .writeRam))).ReadyRecovered ∧
    ∃ t, step (ready (.session (.send .writeRam))) = .next t :=
  ⟨fun before _ _ _ h => (by cases before <;> cases h), fun p => (by cases p <;> rfl), fun _ => rfl, _, rfl⟩
theorem test_witness_StepKeepsCommandWritesLegal :
    CommandWritesLegal (ready (.session (.send .writeRam))).config.extCommands
      (ready (.session (.send .writeRam))).trace ∧ ∃ t, step (ready (.session (.send .writeRam))) = .next t :=
  ⟨fun _ h => (by cases h), _, rfl⟩
theorem test_witness_StepKeepsResultsLegal :
    { ready (.session (.send (.setMuxRatio 129))) with results := [.session .ok] }.ResultsLegal ∧
    ∃ t, step { ready (.session (.send (.setMuxRatio 129))) with results := [.session .ok] } = .next t :=
  ⟨fun _ h => (by cases List.mem_singleton.1 h; trivial), _, rfl⟩
theorem test_witness_StepKeepsConstants : ∃ t, step (ready (.session (.setOrientation .inverted))) = .next t :=
  ⟨_, rfl⟩
theorem test_witness_OnlyTheNamedOperationsWrite :
    (ready8 [] (.frameStore (.readout 0))).requests = .frameStore (.readout 0) :: [] ∧
    (∃ t, step (ready8 [] (.frameStore (.readout 0))) = .next t) ∧
    0 < (ready8 [] (.frameStore (.readout 0))).stores.length := ⟨by decide, ⟨_, rfl⟩, by decide⟩
/-- The memory State.reset starts with is in canonical form, and every store is legal. -/
theorem test_reset_stores_wf : State.reset.StoresWf := by unfold State.StoresWf; decide

end Sys2Proof.Tests
end

section
/-! SUPPORT. Construction (00_scope.md R8; 10_state.md R34): what the state and a Frame Store are at construction, and
the two obligations of the scope file. -/

namespace Sys2Proof.Machine

/-! ### The empty record of the bus -/

theorem busDisciplined_nil : BusDisciplined [] := by
  intro before dc bytes after h
  simp at h

theorem commandWritesLegal_nil (ext : Bool) : CommandWritesLegal ext [] := by
  intro bytes h
  simp at h

/-! ### The state at construction -/

section
variable (c : Config)

theorem State.initial_storesWf (hc : c.wf = true) : (State.initial c).StoresWf := by
  intro f hf
  obtain rfl : f = .new c.fbWidth c.fbHeight := by simpa using hf
  exact FrameStore.new_wf hc

/-- No pin has been driven, and no event of the empty trace requests a level (R34, D27). -/
theorem State.initial_pinsAgree : (State.initial c).PinsAgree := by
  intro p
  cases p <;> rfl

theorem State.initial_resultsLegal : (State.initial c).ResultsLegal := by
  intro r hr
  simp at hr

theorem State.initial_readyRecovered : (State.initial c).ReadyRecovered := fun _ => State.initial_recoveryDue c

end

/-! ### A Frame Store at construction -/

/-- Every byte of the buffer is 0x00, and there is no other byte (R34). -/
theorem FrameStore.memRead_new (w h a : Nat) :
    (FrameStore.new w h).memRead a = if a < w * h / 2 then some 0x00 else none := rfl

theorem opConstruct_of_legal {w h : Nat} (hd : w % 2 = 0 ∧ 2 ≤ w ∧ 1 ≤ h) (s : State) :
    opConstruct w h s = .next ((s.addStore (.new w h)).deliver (.frameStore s.stores.length)) :=
  if_pos (dimsWf_iff.2 hd)

theorem opConstruct_of_illegal {w h : Nat} (hd : ¬ (w % 2 = 0 ∧ 2 ≤ w ∧ 1 ≤ h)) (s : State) :
    opConstruct w h s = .refused .illFormedDimensions :=
  if_neg (mt dimsWf_iff.1 hd)

theorem step_construct {s : State} {w h : Nat} {rest : List Request}
    (hr : s.requests = .frameStore (.construct w h) :: rest) : step s = opConstruct w h (s.setRequests rest) :=
  step_serves hr

/-! ### The obligations -/

/-- Settles O28: construction answers exactly the initial state of a legal configuration, whose store is a new one of
legal dimensions and whose trace and results are empty. -/
theorem constructionMeetsInvariants : Obligations.ConstructionMeetsInvariants := by
  intro c s h
  obtain ⟨hc, rfl⟩ := (State.construct_next c).1 h
  exact ⟨hc, State.initial_storesWf c hc, busDisciplined_nil, State.initial_pinsAgree c, commandWritesLegal_nil _,
    State.initial_resultsLegal c, State.initial_readyRecovered c⟩

/-- Settles O38: the step is the construction of the store, which splits on the legality of the dimensions. -/
theorem constructFrameStoreResult : Obligations.ConstructFrameStoreResult := by
  intro s w h rest hr
  rw [step_construct hr]
  split
  case isTrue hd => exact ⟨.new w h, rfl, rfl, FrameStore.memRead_new w h, opConstruct_of_legal hd _⟩
  case isFalse hd => exact opConstruct_of_illegal hd _

end Sys2Proof.Machine
end

section
/-! SUPPORT. The state (10_state.md): what each kind of transaction changes and leaves as it was, and the six obligations
of the state file, assembled from these frames. -/

namespace Sys2Proof.Machine

/-! ### What every transaction keeps -/

/-- Every store of `fs` stands in `fs'` at its place, with its dimensions (R24). -/
def DimsKept (fs fs' : List FrameStore) : Prop :=
  ∀ (k : Nat) (f : FrameStore), fs[k]? = some f →
    ∃ f' : FrameStore, fs'[k]? = some f' ∧ f'.width = f.width ∧ f'.height = f.height

theorem DimsKept.refl (fs : List FrameStore) : DimsKept fs fs := fun _ f hf => ⟨f, hf, rfl, rfl⟩

theorem dimsKept_set {fs : List FrameStore} {k : Nat} {f f' : FrameStore} (hk : fs[k]? = some f)
    (hw : f'.width = f.width) (hh : f'.height = f.height) : DimsKept fs (fs.set k f') := by
  intro j g hg
  by_cases hj : j = k
  · subst hj
    obtain rfl : f = g := Option.some.inj (hk.symm.trans hg)
    obtain ⟨hlt, -⟩ := List.getElem?_eq_some_iff.1 hk
    exact ⟨f', by simp [hlt], hw, hh⟩
  · exact ⟨g, by rwa [List.getElem?_set_ne (Ne.symm hj)], rfl, rfl⟩

theorem dimsKept_append (fs gs : List FrameStore) : DimsKept fs (fs ++ gs) := by
  intro k f hf
  obtain ⟨hlt, -⟩ := List.getElem?_eq_some_iff.1 hf
  exact ⟨f, by rwa [List.getElem?_append_left hlt], rfl, rfl⟩

/-- What every transaction keeps, the session's too (R24, R29, R209): no constant changes, records only grow. -/
structure ServeFrame (s t : State) : Prop where
  config : t.config = s.config
  inverted : t.inverted = s.inverted
  requests : t.requests = s.requests
  trace : ∃ evs, t.trace = s.trace ++ evs
  results : ∃ rs, t.results = s.results ++ rs
  dims : DimsKept s.stores t.stores

section
variable {s t : State}

theorem ServeFrame.refl (s : State) : ServeFrame s s := ⟨rfl, rfl, rfl, ⟨[], by simp⟩, ⟨[], by simp⟩, .refl _⟩

theorem State.deliver_serveFrame (s : State) (r : Result) : ServeFrame s (s.deliver r) :=
  ⟨rfl, rfl, rfl, ⟨[], by simp⟩, ⟨[r], rfl⟩, .refl _⟩

theorem State.readByte_congr {k : Nat} (h : t.stores[k]? = s.stores[k]?) (a : Nat) :
    t.readByte k a = s.readByte k a := by
  unfold State.readByte; rw [h]

theorem State.StoresWf.of_stores_eq (hs : s.StoresWf) (h : t.stores = s.stores) : t.StoresWf := by
  unfold State.StoresWf; rw [h]; exact hs

/-! ### Frame Store transactions -/

/-- What a Frame Store transaction may do to the list of stores. -/
inductive StoresChange (op : FrameStoreOp) (fs : List FrameStore) : List FrameStore → Prop where
  | unchanged : StoresChange op fs fs
  /-- A new store of legal dimensions behind the others. -/
  | added {w h : Nat} (hd : dimsWf w h = true) : StoresChange op fs (fs ++ [.new w h])
  /-- The bytes of one store written, which only set_pixel and clear do (R24). -/
  | written {k : Nat} {f f' : FrameStore} (hk : fs[k]? = some f) (hw : f'.width = f.width) (hh : f'.height = f.height)
      (hwf : f.wf → f'.wf) (hop : (∃ k x y c, op = .setPixel k x y c) ∨ ∃ k c, op = .clear k c) :
      StoresChange op fs (fs.set k f')

/-- A Frame Store transaction changes stores and results only: it touches no part of the session and no bus (R50). -/
theorem serveFrameStore_eq {op : FrameStoreOp} (h : serveFrameStore op s = .next t) :
    ∃ fs rs, t = { s with stores := fs, results := s.results ++ rs } ∧ StoresChange op s.stores fs := by
  rcases serveFrameStore_next s h with ⟨k, f, f', hk, hw, hh, hwf, rfl, hop⟩ | ⟨w, h', -, hd, rfl⟩ |
    ⟨v, k, x, y, -, rfl⟩ | ⟨k, w, h', -, rfl⟩ | ⟨k, bs, -, rfl⟩ | ⟨k, x, y, c, -, rfl⟩
  · exact ⟨s.stores.set k f', [], by simp [State.setStore],
      .written hk hw hh hwf (hop.imp (⟨k, ·⟩) (⟨k, ·⟩))⟩
  · exact ⟨_, [.frameStore s.stores.length], rfl, .added hd⟩
  · exact ⟨_, [.pixel v], rfl, .unchanged⟩
  · exact ⟨_, [.dims w h'], rfl, .unchanged⟩
  · exact ⟨_, [.bytes bs], rfl, .unchanged⟩
  · exact ⟨t.stores, [], by simp, .unchanged⟩

section
variable {op : FrameStoreOp} {fs fs' : List FrameStore}

theorem StoresChange.dimsKept (h : StoresChange op fs fs') : DimsKept fs fs' := by
  cases h with
  | unchanged => exact .refl fs
  | added hd => exact dimsKept_append _ _
  | written hk hw hh hwf hop => exact dimsKept_set hk hw hh

/-- What is written or added is legal, the other stores are as before (R25). -/
theorem StoresChange.wf (h : StoresChange op fs fs') (hs : ∀ f ∈ fs, f.wf) : ∀ f ∈ fs', f.wf := by
  intro g hg
  cases h with
  | unchanged => exact hs g hg
  | added hd =>
    rcases List.mem_append.1 hg with hg | hg
    · exact hs g hg
    · rw [List.mem_singleton.1 hg]; exact FrameStore.new_wf hd
  | written hk hw hh hwf hop =>
    rcases List.mem_or_eq_of_mem_set hg with hg | rfl
    · exact hs g hg
    · exact hwf (hs _ (List.mem_of_getElem? hk))

/-- But for set_pixel and clear, every store that was there is there unchanged (R24). -/
theorem StoresChange.getElem?_eq (h : StoresChange op fs fs') (hp : ∀ k x y c, op ≠ .setPixel k x y c)
    (hc : ∀ k c, op ≠ .clear k c) {k : Nat} (hk : k < fs.length) : fs'[k]? = fs[k]? := by
  cases h with
  | unchanged => rfl
  | added hd => exact List.getElem?_append_left hk
  | written _ _ _ _ hop =>
    rcases hop with ⟨k, x, y, c, rfl⟩ | ⟨k, c, rfl⟩
    · exact absurd rfl (hp k x y c)
    · exact absurd rfl (hc k c)

end

theorem serveFrameStore_frame {op : FrameStoreOp} (h : serveFrameStore op s = .next t) : ServeFrame s t := by
  obtain ⟨fs, rs, rfl, hc⟩ := serveFrameStore_eq h
  exact ⟨rfl, rfl, rfl, ⟨[], by simp⟩, ⟨rs, rfl⟩, hc.dimsKept⟩

theorem serveFrameStore_storesWf {op : FrameStoreOp} (hs : s.StoresWf) (h : serveFrameStore op s = .next t) :
    t.StoresWf := by
  obtain ⟨fs, rs, rfl, hc⟩ := serveFrameStore_eq h
  exact hc.wf hs

/-! ### Session transactions -/

theorem State.finish_stores (s : State) (r : Run) : (s.finish r).stores = r.state.stores := by
  rcases s.finish_cases r with ⟨-, h⟩ | ⟨e, -, h⟩ | ⟨-, h⟩ <;> rw [h] <;> rfl

theorem State.finish_orientation (s : State) (r : Run) : (s.finish r).orientation = r.state.orientation := by
  rcases s.finish_cases r with ⟨-, h⟩ | ⟨e, -, h⟩ | ⟨-, h⟩ <;> rw [h] <;> rfl

/-- Ending an operation delivers at most a result and sets at most the phase. -/
theorem State.finish_serveFrame (s : State) (r : Run) : ServeFrame r.state (s.finish r) := by
  rcases s.finish_cases r with ⟨-, h⟩ | ⟨e, -, h⟩ | ⟨-, h⟩ <;> rw [h]
  · exact r.state.deliver_serveFrame _
  · exact ⟨rfl, rfl, rfl, ⟨[], by simp⟩, ⟨[_], rfl⟩, .refl _⟩
  · exact ⟨rfl, rfl, rfl, ⟨[], by simp⟩, ⟨[], by simp⟩, .refl _⟩

theorem LegalRun.finish_stores {ext : Bool} {r : Run} (h : LegalRun ext s r) : (s.finish r).stores = s.stores :=
  (s.finish_stores r).trans h.steps.frame.stores

theorem LegalRun.finish_frame {ext : Bool} {r : Run} (h : LegalRun ext s r) : ServeFrame s (s.finish r) := by
  have hf := s.finish_serveFrame r
  have hr := h.steps.frame
  obtain ⟨es, hes⟩ := hr.trace
  obtain ⟨es', hes'⟩ := hf.trace
  obtain ⟨rs, hrs⟩ := hf.results
  exact ⟨hf.config.trans hr.config, hf.inverted.trans hr.inverted, hf.requests.trans hr.requests,
    ⟨es ++ es', by rw [hes', hes, List.append_assoc]⟩, ⟨rs, by rw [hrs, hr.results]⟩, hr.stores ▸ hf.dims⟩

/-! ### The orientation over a session sequence (R28) -/

/-- The `?` goes on after a step that ends Ok (R12). -/
theorem Run.andThen_of_ok {r : Run} (h : r.flow = .ok) (k : State → Run) : r.andThen k = k r.state := by
  unfold Run.andThen; rw [h]

/-- The sequence leaves the orientation as it was. -/
def OrientationKept (s : State) (r : Run) : Prop := r.state.orientation = s.orientation

theorem OrientationKept.andThen {r : Run} {k : State → Run} (h : OrientationKept s r)
    (hk : ∀ s', OrientationKept s' (k s')) : OrientationKept s (r.andThen k) := by
  by_cases hf : r.flow = .ok
  · rw [Run.andThen_of_ok hf]; exact (hk r.state).trans h
  · rwa [Run.andThen_of_not_ok hf]

theorem orientationKept_tx (p : Pin) (l : Level) (bytes : List Byte) :
    OrientationKept s ((s.drive p l).tx bytes) := by
  rw [OrientationKept, State.tx_eq]; simp

theorem orientationKept_delay (p : Pin) (l : Level) (n : Nat) : OrientationKept s ((s.drive p l).delay n) := by
  rw [OrientationKept, State.delay_eq]; simp

theorem orientationKept_send (i : Instr) : OrientationKept s (send i s) := by
  unfold send
  split
  · rfl
  · refine (orientationKept_tx _ _ _).andThen fun s' => ?_
    split
    · rfl
    · exact orientationKept_tx _ _ _

theorem orientationKept_sendAll (is : List Instr) : OrientationKept s (sendAll is s) := by
  induction is generalizing s with
  | nil => rfl
  | cons i is ih => exact (orientationKept_send i).andThen fun _ => ih

theorem orientationKept_flushBuffer (bytes : List Byte) : OrientationKept s (flushBuffer bytes s) :=
  (orientationKept_send _).andThen fun _ => orientationKept_tx _ _ _

theorem orientationKept_hardReset : OrientationKept s (hardReset s) :=
  (orientationKept_delay _ _ _).andThen fun _ =>
    (orientationKept_delay _ _ _).andThen fun _ => (orientationKept_delay _ _ _).andThen fun _ => rfl

/-- `apply_orientation` of the session's own orientation, step 20 of the initialization (R176), changes none. -/
theorem orientationKept_applyOrientation : OrientationKept s (applyOrientation s.orientation s) :=
  orientationKept_send (s := s.setOrientation s.orientation) _

theorem orientationKept_initSequence : OrientationKept s (initSequence s) :=
  orientationKept_hardReset.andThen fun _ =>
    (orientationKept_sendAll _).andThen fun _ => orientationKept_applyOrientation.andThen fun _ => rfl

theorem orientationKept_addressWindow (x y w h : Nat) : OrientationKept s (addressWindow x y w h s) := by
  unfold addressWindow
  split
  · exact (orientationKept_send _).andThen fun _ => orientationKept_send _
  · rfl

theorem orientationKept_flushFrame (f : FrameStore) : OrientationKept s (flushFrame f s) :=
  (orientationKept_addressWindow _ _ _ _).andThen fun _ => orientationKept_flushBuffer _

theorem OrientationKept.finish {r : Run} (h : OrientationKept s r) : (s.finish r).orientation = s.orientation :=
  (s.finish_orientation r).trans h

/-- A send that answers a next state is the send of a caller, whatever the phase that admitted it. -/
theorem opSend_next {i : Instr} (h : opSend i s = .next t) : sendDirect i s = .next t := by
  unfold opSend at h
  split at h
  · split at h
    · exact h
    · split at h
      · cases h
      · exact h
    · cases h
  · cases h

/-- Only set_orientation writes the orientation (R28). -/
theorem serveSession_orientation {op : SessionOp} (ho : ∀ o, op ≠ .setOrientation o)
    (h : serveSession op s = .next t) : t.orientation = s.orientation := by
  cases op with
  | send i =>
    obtain ⟨-, rfl⟩ := sendDirect_next (opSend_next h)
    exact (orientationKept_send i).finish
  | writeData bytes =>
    obtain ⟨-, h⟩ := State.inReady_next h
    cases h; exact (orientationKept_tx _ _ _).finish
  | flushBuffer bytes =>
    obtain ⟨-, h⟩ := State.inReady_next h
    cases h; exact (orientationKept_flushBuffer _).finish
  | hardReset => cases h; exact orientationKept_hardReset.finish
  | initializeSession => cases h; exact orientationKept_initSequence.finish
  | setOrientation o => exact absurd rfl (ho o)
  | setAddressWindow x y w h' =>
    obtain ⟨-, h⟩ := State.inReady_next h
    split at h
    · cases h; exact (orientationKept_addressWindow _ _ _ _).finish
    · cases h
  | flushFrame k =>
    obtain ⟨-, h⟩ := State.inReady_next h
    obtain ⟨f, -, h⟩ := State.onStore_next s h
    split at h
    · cases h; exact (orientationKept_flushFrame f).finish
    · cases h

/-! ### Steps -/

/-- Every step keeps the constants and only adds to the records. -/
theorem step_frame (h : step s = .next t) : ∃ rest, ServeFrame (s.setRequests rest) t := by
  rcases step_next h with ⟨-, rfl⟩ | ⟨rest, ⟨i, -, -, rfl⟩ | ⟨op, -, h⟩ | ⟨op, r, -, -, hl, rfl⟩⟩
  · exact ⟨t.requests, .refl t⟩
  · exact ⟨rest, State.deliver_serveFrame _ _⟩
  · exact ⟨rest, serveFrameStore_frame h⟩
  · exact ⟨rest, hl.finish_frame⟩

/-- A table word that decodes is presented as its intent, on the machine that admits it. -/
theorem State.withFetchWord_of_decodes {nbits w : Nat} {i : Instr} (s : State) (h : decodeTableWord nbits w = some i) :
    s.withFetchWord nbits w = (s.admitting i).present i := by
  rw [State.withFetchWord, h]

end

/-! ### The obligations -/

/-- Settles O55: codec and session transactions leave the stores alone, a Frame Store transaction keeps them legal. -/
theorem stepKeepsStoresWf : Obligations.StepKeepsStoresWf := by
  intro s t hs h
  rcases step_next h with ⟨-, rfl⟩ | ⟨rest, ⟨i, -, -, rfl⟩ | ⟨op, -, h⟩ | ⟨op, r, -, -, hl, rfl⟩⟩
  · exact hs
  · exact hs
  · exact serveFrameStore_storesWf (s := s.setRequests rest) hs h
  · exact hs.of_stores_eq hl.finish_stores

/-- Settles O17: what exec answers is the state with the codec's result delivered. -/
theorem execFrame : Obligations.ExecFrame := by
  intro i s t h
  obtain ⟨-, rfl⟩ := exec_next h
  exact ⟨⟨codec i, rfl⟩, rfl, rfl, rfl, rfl, rfl, fun _ => rfl, rfl, rfl, rfl, rfl, rfl, fun _ _ => rfl⟩

/-- Settles O59: the frame that every transaction has. -/
theorem stepKeepsConstants : Obligations.StepKeepsConstants := by
  intro s t h
  obtain ⟨rest, hf⟩ := step_frame h
  exact ⟨hf.config, hf.inverted, hf.trace, hf.results, hf.dims⟩

/-- Settles O60, by the port the request is presented on: a codec transaction delivers a result, a Frame Store
transaction writes stores and results, a session transaction keeps the stores, and the orientation unless it is
set_orientation. -/
theorem onlyTheNamedOperationsWrite : Obligations.OnlyTheNamedOperationsWrite := by
  intro s t r rest hr h
  rw [step_serves hr] at h
  cases r with
  | encode i =>
    obtain ⟨-, rfl⟩ := exec_next h
    exact ⟨fun _ _ _ _ _ => rfl, fun _ => rfl, fun _ => ⟨rfl, rfl, fun _ => rfl, rfl, rfl, rfl⟩, rfl⟩
  | frameStore op =>
    obtain ⟨fs, rs, rfl, hc⟩ := serveFrameStore_eq h
    exact ⟨fun hp hcl k a hk => State.readByte_congr
        (hc.getElem?_eq (fun k x y c e => hp k x y c (e ▸ rfl)) (fun k c e => hcl k c (e ▸ rfl)) hk) a,
      fun _ => rfl, fun _ => ⟨rfl, rfl, fun _ => rfl, rfl, rfl, rfl⟩, rfl⟩
  | session op =>
    have horient : (∀ o, op ≠ .setOrientation o) → t.orientation = s.orientation :=
      fun ho => serveSession_orientation (s := s.setRequests rest) ho h
    obtain ⟨r, hl, rfl⟩ := serveSession_next h
    exact ⟨fun _ _ k a _ => State.readByte_congr (congrArg (·[k]?) hl.finish_stores) a,
      fun ho => horient fun o e => ho o (e ▸ rfl), fun hn => absurd rfl (hn op), hl.finish_frame.requests⟩

/-- Settles O26: a step serves the oldest request, which is a queued intent or the one the table word presents. -/
theorem stepRunsPresentedIntent : Obligations.StepRunsPresentedIntent := by
  intro s
  refine ⟨fun i rest hr => step_serves hr, fun nbits w i hd => ?_, step_idle⟩
  rw [State.withFetchWord_of_decodes s hd]
  exact step_serves (State.present_requests _ i)

/-- Settles O27: construction answers the initial state exactly where the dimensions are legal, and State.reset is the
construction from the default configuration. -/
theorem constructionState : Obligations.ConstructionState := by
  refine ⟨fun c => ?_, .default, State.reset_constructed, rfl, rfl, rfl⟩
  split
  case isTrue hd =>
    exact ⟨State.initial c, if_pos (dimsWf_iff.2 hd), rfl, rfl, rfl, rfl, rfl, rfl, rfl, fun p => by cases p <;> rfl,
      ⟨.new c.fbWidth c.fbHeight, rfl, rfl, rfl⟩, FrameStore.memRead_new _ _⟩
  case isFalse hd => exact if_neg (mt dimsWf_iff.1 hd)

end Sys2Proof.Machine
end

section
/-! SUPPORT. Memory (20_memory.md): the pixel of a nibble, the Frame Store operations on a legal store, and the two
obligations of the memory file. -/

namespace Sys2Proof.Machine

open Operands

/-! ### The pixel of a nibble (R54) -/

section
variable {w h i half : Nat}

/-- With an even width the first pixel of byte `i` stands in an even column. -/
theorem pixelColumn_even (hw : w % 2 = 0) (i : Nat) : 2 * i % w % 2 = 0 := by
  rw [Nat.mod_mod_of_dvd _ (Nat.dvd_of_mod_eq_zero hw), Nat.mul_mod_right]

/-- Both pixels of byte `i` lie in one row. -/
theorem pixelColumn_lt (hw : w % 2 = 0) (hpos : 0 < w) (hh : half < 2) : 2 * i % w + half < w := by
  have heven := pixelColumn_even hw i
  have hlt := Nat.mod_lt (2 * i) hpos
  omega

theorem pixelRow_lt (hi : i < w * h / 2) : 2 * i / w < h :=
  Nat.div_lt_of_lt_mul (by omega)

theorem pixelColumn_parity (hw : w % 2 = 0) (hh : half < 2) : (2 * i % w + half) % 2 = half := by
  have heven := pixelColumn_even hw i
  omega

/-- The byte index is inverted by division with remainder of the nibble's number. -/
theorem byteIndex_pixel (hh : half < 2) : byteIndex w (2 * i % w + half) (2 * i / w) = i := by
  have hdiv : 2 * i / w * w + 2 * i % w = 2 * i := Nat.div_add_mod' _ _
  rw [byteIndex, ← Nat.add_assoc, hdiv]
  omega

end

/-! ### The Frame Store operations on a legal store: an in-bounds pixel has its byte (R52) -/

section
variable {s : State} {k x y : Nat} {f : FrameStore} {e : Fault}

theorem FrameStore.memWrite_of_lt {i : Nat} {b : Byte} (h : i < f.len) :
    f.memWrite i b = some { f with mem := f.mem.write i b } := if_pos h

theorem opSetPixel_inBounds (hk : s.stores[k]? = some f) (hd : dimsWf f.width f.height = true)
    (hb : f.inBounds x y = true) (color : Nibble) :
    opSetPixel k x y color s =
      .next (s.setStore k { f with
        mem := f.mem.write (byteIndex f.width x y) (withNibble (f.mem.read (byteIndex f.width x y)) x color) }) := by
  have hlt := FrameStore.byteIndex_lt hd hb
  rw [opSetPixel, State.onStore_some s hk, if_pos hb, FrameStore.memRead_of_lt hlt]
  dsimp only
  rw [FrameStore.memWrite_of_lt hlt]

theorem opSetPixel_outOfBounds (hk : s.stores[k]? = some f) (hb : ¬ f.inBounds x y = true) (color : Nibble) :
    opSetPixel k x y color s = .next s := by
  rw [opSetPixel, State.onStore_some s hk, if_neg hb]

theorem opGetPixel_inBounds (hk : s.stores[k]? = some f) (hd : dimsWf f.width f.height = true)
    (hb : f.inBounds x y = true) :
    opGetPixel k x y s =
      .next (s.deliver (.pixel (some (nibbleOf (f.mem.read (byteIndex f.width x y)) x)))) := by
  rw [opGetPixel, State.onStore_some s hk, if_pos hb, FrameStore.memRead_of_lt (FrameStore.byteIndex_lt hd hb)]

theorem opGetPixel_outOfBounds (hk : s.stores[k]? = some f) (hb : ¬ f.inBounds x y = true) :
    opGetPixel k x y s = .next (s.deliver (.pixel none)) := by
  rw [opGetPixel, State.onStore_some s hk, if_neg hb]

/-! ### What never faults -/

/-- An operation on a store faults only where there is that store: a reference to none is refused. -/
theorem State.onStore_fault {g : FrameStore → Host.Outcome State Fault Refusal} (h : s.onStore k g = .fault e) :
    ∃ f, s.stores[k]? = some f ∧ g f = .fault e := by
  unfold State.onStore at h
  split at h
  · next f hf => exact ⟨f, hf, h⟩
  · cases h

theorem State.StoresWf.dimsWf_of_getElem? (hs : s.StoresWf) (hk : s.stores[k]? = some f) :
    dimsWf f.width f.height = true :=
  (hs f (List.mem_of_getElem? hk)).1

theorem opSetPixel_not_fault (hs : s.StoresWf) (color : Nibble) : opSetPixel k x y color s ≠ .fault e := by
  intro h
  obtain ⟨f, hk, -⟩ := State.onStore_fault h
  by_cases hb : f.inBounds x y = true
  · rw [opSetPixel_inBounds hk (hs.dimsWf_of_getElem? hk) hb] at h; cases h
  · rw [opSetPixel_outOfBounds hk hb] at h; cases h

theorem opGetPixel_not_fault (hs : s.StoresWf) : opGetPixel k x y s ≠ .fault e := by
  intro h
  obtain ⟨f, hk, -⟩ := State.onStore_fault h
  by_cases hb : f.inBounds x y = true
  · rw [opGetPixel_inBounds hk (hs.dimsWf_of_getElem? hk) hb] at h; cases h
  · rw [opGetPixel_outOfBounds hk hb] at h; cases h

/-- Only set_pixel and get_pixel could fault, and not on legal stores. -/
theorem serveFrameStore_not_fault (hs : s.StoresWf) (op : FrameStoreOp) : serveFrameStore op s ≠ .fault e := by
  cases op with
  | construct w h => rw [serveFrameStore, opConstruct]; split <;> nofun
  | setPixel k x y color => exact opSetPixel_not_fault hs color
  | clear k color => intro h; obtain ⟨f, -, h⟩ := State.onStore_fault h; cases h
  | getPixel k x y => exact opGetPixel_not_fault hs
  | dims k => intro h; obtain ⟨f, -, h⟩ := State.onStore_fault h; cases h
  | readout k => intro h; obtain ⟨f, -, h⟩ := State.onStore_fault h; cases h

/-- An operation that needs phase Ready faults only if its body does: another phase is refused (R180). -/
theorem State.inReady_not_fault {r : Host.Outcome State Fault Refusal} (h : r ≠ .fault e) : s.inReady r ≠ .fault e := by
  unfold State.inReady
  split
  · exact h
  · nofun
  · nofun

theorem sendDirect_not_fault (i : Instr) : sendDirect i s ≠ .fault e := by
  unfold sendDirect; split <;> nofun

theorem opSend_not_fault (i : Instr) : opSend i s ≠ .fault e := by
  unfold opSend
  split
  · split
    · exact sendDirect_not_fault i
    · split
      · nofun
      · exact sendDirect_not_fault i
    · nofun
  · nofun

/-- The session port has no fault: its errors are results, and what has no meaning is refused. -/
theorem serveSession_not_fault (op : SessionOp) : serveSession op s ≠ .fault e := by
  cases op with
  | send i => exact opSend_not_fault i
  | writeData bytes => exact State.inReady_not_fault nofun
  | flushBuffer bytes => exact State.inReady_not_fault nofun
  | hardReset => nofun
  | initializeSession => nofun
  | setOrientation o => exact State.inReady_not_fault nofun
  | setAddressWindow x y w h => exact State.inReady_not_fault (by split <;> nofun)
  | flushFrame k =>
    refine State.inReady_not_fault fun h => ?_
    obtain ⟨f, -, h⟩ := State.onStore_fault h
    split at h <;> cases h

end

/-! ### The obligations -/

/-- Settles O37: the index lies in the buffer, the byte and the parity of x give the pixel back, and division with
remainder by the width is the inverse. -/
theorem pixelMapBijective : Obligations.PixelMapBijective := by
  intro w h hw hw2 hh
  refine ⟨fun x y hx hy => ?_, fun x y x' y' hx _ hx' _ hb hp => ?_, fun i half hi hhalf => ?_⟩
  · exact FrameStore.byteIndex_lt (f := .new w h) (dimsWf_iff.2 ⟨hw, hw2, hh⟩) (FrameStore.inBounds_iff.2 ⟨hx, hy⟩)
  · obtain ⟨hy, hx2⟩ := byteIndex_inj hw hx hx' hb
    exact ⟨by omega, hy⟩
  · exact ⟨pixelColumn_lt hw (by omega) hhalf, pixelRow_lt hi, pixelColumn_parity hw hhalf, byteIndex_pixel hhalf⟩

/-- Settles O39, by the port the oldest request is presented on: the codec and the session have no fault, and a Frame
Store transaction has none on legal stores. -/
theorem stepNeverFaults : Obligations.StepNeverFaults := by
  intro s e hs
  cases hr : s.requests with
  | nil => rw [step_idle hr]; nofun
  | cons r rest =>
    rw [step_serves hr]
    cases r with
    | encode i => exact exec_not_fault i _ e
    | frameStore op => exact serveFrameStore_not_fault (s := s.setRequests rest) hs op
    | session op => exact serveSession_not_fault op

end Sys2Proof.Machine
end

section
/-! SUPPORT. The packed parameter bytes of 30_encoding.md R88 to R92: the fields read back from an assembled byte, and
the byte assembled again from its fields. -/

namespace Sys2Proof.Operands

/-! ### The nibbles of a byte (R90, R91) -/

theorem lowNibble_toNat (p : Byte) : (p &&& 0x0F).toNat = p.toNat % 16 := by
  rw [BitVec.toNat_and]
  exact Nat.and_two_pow_sub_one_eq_mod p.toNat 4

theorem highNibble_toNat (p : Byte) : (p >>> 4).toNat = p.toNat / 16 := by
  rw [BitVec.toNat_ushiftRight, Nat.shiftRight_eq_div_pow]

/-! ### SetPhaseLengths (R90, R94) -/

section
variable {phase1 phase2 : Byte}

theorem phase1_halved_toNat (h : 1 ≤ phase1.toNat) : ((phase1 - 1) >>> 1).toNat = (phase1.toNat - 1) / 2 := by
  rw [BitVec.toNat_ushiftRight, Nat.shiftRight_eq_div_pow]
  exact congrArg (· / 2) (muxByte_toNat h)

theorem phase1OfField_toNat {f : Byte} (h : f.toNat < 128) : (phase1OfField f).toNat = 2 * f.toNat + 1 := by
  have hshift : (f <<< 1).toNat = f.toNat <<< 1 := by
    rw [BitVec.toNat_shiftLeft, Nat.mod_eq_of_lt (by rw [Nat.shiftLeft_eq]; omega)]
  have hone : (1 : Byte).toNat < 2 ^ 1 := by decide
  rw [phase1OfField, BitVec.toNat_or, hshift, ← Nat.shiftLeft_add_eq_or_of_lt hone, Nat.shiftLeft_eq, Nat.mul_comm]
  rfl

theorem phase1Field_phaseByte (h1 : 1 ≤ phase1.toNat) (h2 : phase1.toNat ≤ 32) (h3 : phase2.toNat < 16) :
    phase1Field (phaseByte phase1 phase2) = (phase1 - 1) >>> 1 := by
  apply BitVec.eq_of_toNat_eq
  rw [phase1Field, lowNibble_toNat, phaseByte_toNat h1 h2 h3, phase1_halved_toNat h1]
  omega

theorem phase2Field_phaseByte (h1 : 1 ≤ phase1.toNat) (h2 : phase1.toNat ≤ 32) (h3 : phase2.toNat < 16) :
    phase2Field (phaseByte phase1 phase2) = phase2 := by
  apply BitVec.eq_of_toNat_eq
  rw [phase2Field, highNibble_toNat, phaseByte_toNat h1 h2 h3]
  omega

end

theorem phase1Field_lt (p : Byte) : (phase1Field p).toNat < 16 := by
  rw [phase1Field, lowNibble_toNat]
  exact Nat.mod_lt _ (by decide)

theorem phase2Field_lt (p : Byte) : (phase2Field p).toNat < 16 := by
  have := p.isLt
  rw [phase2Field, highNibble_toNat]
  omega

/-- Halving undoes the canonical choice of phase 1 (D32). -/
theorem phase1OfField_halved {f : Byte} (h : f.toNat < 128) : (phase1OfField f - 1) >>> 1 = f := by
  have hval := phase1OfField_toNat h
  apply BitVec.eq_of_toNat_eq
  rw [phase1_halved_toNat (by omega)]
  omega

theorem phaseByte_fields (p : Byte) : phaseByte (phase1OfField (phase1Field p)) (phase2Field p) = p := by
  have hlow := phase1Field_lt p
  have hval : (phase1OfField (phase1Field p)).toNat = 2 * (phase1Field p).toNat + 1 := phase1OfField_toNat (by omega)
  apply BitVec.eq_of_toNat_eq
  rw [phaseByte_toNat (by omega) (by omega) (phase2Field_lt p), hval, phase1Field, phase2Field, lowNibble_toNat,
    highNibble_toNat]
  omega

/-! ### SetClockFoscDivset (R91) -/

section
variable {fosc divset : Byte}

theorem clockByte_low (h1 : fosc.toNat < 16) (h2 : divset.toNat < 16) : clockByte fosc divset &&& 0x0F = divset := by
  apply BitVec.eq_of_toNat_eq
  rw [lowNibble_toNat, clockByte_toNat h1 h2]
  omega

theorem clockByte_high (h1 : fosc.toNat < 16) (h2 : divset.toNat < 16) : clockByte fosc divset >>> 4 = fosc := by
  apply BitVec.eq_of_toNat_eq
  rw [highNibble_toNat, clockByte_toNat h1 h2]
  omega

end

theorem clockByte_nibbles (p : Byte) : clockByte (p >>> 4) (p &&& 0x0F) = p := by
  have hlow := lowNibble_toNat p
  have hhigh := highNibble_toNat p
  have := p.isLt
  apply BitVec.eq_of_toNat_eq
  rw [clockByte_toNat (by omega) (by omega)]
  omega

/-! ### Constant-pattern bytes (R92) -/

/-- The two patterns being different, the byte tells the Boolean. -/
theorem boolOf_eq_some {whenTrue whenFalse p : Byte} {b : Bool} (h : whenTrue ≠ whenFalse) :
    boolOf whenTrue whenFalse p = some b ↔ p = if b then whenTrue else whenFalse := by
  unfold boolOf
  by_cases ht : p = whenTrue
  · cases b <;> simp [ht, h]
  · cases b <;> simp [ht]

/-! ### SetRemapping (R89), bit by bit -/

/-- A one-bit field shifted to bit `n` of a byte. -/
theorem shiftedBit {k n : Nat} (hn : n < 8) (b : Bool) :
    (decide (k < 8) && !decide (k < n) && (decide (k - n = 0) && b)) = (decide (k = n) && b) := by
  have hpos : (decide (k < 8) && !decide (k < n) && decide (k - n = 0)) = decide (k = n) := by
    rw [Bool.eq_iff_iff]
    simp only [Bool.and_eq_true, Bool.not_eq_true', decide_eq_true_eq, decide_eq_false_iff_not]
    omega
  rw [← Bool.and_assoc, hpos]

section
variable (axis : Axis) (col nib : Direction) (scan : ScanDirection) (layout : ComLayout) (k : Nat)

theorem axisBit_getLsbD : (axisBit axis).getLsbD k = (decide (k = 0) && decide (axis = .vertical)) := by
  cases axis <;> simp [axisBit]

theorem columnBit_getLsbD : (columnBit col).getLsbD k = (decide (k = 0) && decide (col = .reverse)) := by
  cases col <;> simp [columnBit]

theorem nibbleBit_getLsbD : (nibbleBit nib).getLsbD k = (decide (k = 0) && decide (nib = .forward)) := by
  cases nib <;> simp [nibbleBit]

theorem scanBit_getLsbD : (scanBit scan).getLsbD k = (decide (k = 0) && decide (scan = .lastRowFirst)) := by
  cases scan <;> simp [scanBit]

theorem interlaceBit_getLsbD :
    (interlaceBit layout).getLsbD k = (decide (k = 0) && decide (layout = .interlaced)) := by
  cases layout <;> simp [interlaceBit]

/-- The five fields of p0 stand in bits 0, 1, 2, 4 and 5; every other bit is 0. -/
theorem remapP0_getElem (hk : k < 8) : (remapP0 axis col nib scan layout)[k] =
    (decide (k = 0) && decide (axis = .vertical) || decide (k = 1) && decide (col = .reverse) ||
      decide (k = 2) && decide (nib = .forward) || decide (k = 4) && decide (scan = .lastRowFirst) ||
      decide (k = 5) && decide (layout = .interlaced)) := by
  rw [← BitVec.getLsbD_eq_getElem]
  simp only [remapP0, BitVec.getLsbD_or, BitVec.getLsbD_shiftLeft, axisBit_getLsbD, columnBit_getLsbD,
    nibbleBit_getLsbD, scanBit_getLsbD, interlaceBit_getLsbD]
  rw [shiftedBit (by decide), shiftedBit (by decide), shiftedBit (by decide), shiftedBit (by decide)]

@[simp] theorem axisOf_remapP0 : axisOf (remapP0 axis col nib scan layout) = axis := by
  cases axis <;> simp [axisOf, remapP0_getElem]

@[simp] theorem columnOf_remapP0 : columnOf (remapP0 axis col nib scan layout) = col := by
  cases col <;> simp [columnOf, remapP0_getElem]

@[simp] theorem nibbleDirOf_remapP0 : nibbleDirOf (remapP0 axis col nib scan layout) = nib := by
  cases nib <;> simp [nibbleDirOf, remapP0_getElem]

@[simp] theorem scanOf_remapP0 : scanOf (remapP0 axis col nib scan layout) = scan := by
  cases scan <;> simp [scanOf, remapP0_getElem]

end

/-- The constant bits of p0 are 3, 6 and 7 (R89). -/
theorem remapConstants_iff {p0 : Byte} :
    p0 &&& 0xC8 = 0 ↔ p0[3] = false ∧ p0[6] = false ∧ p0[7] = false := by
  constructor
  · intro h
    have hbit (k : Nat) (hk : k < 8) : (p0[k] && (0xC8 : Byte)[k]) = false := by
      rw [← BitVec.getElem_and, h, BitVec.ofNat_eq_ofNat, BitVec.getElem_zero]
    exact ⟨by simpa using hbit 3, by simpa using hbit 6, by simpa using hbit 7⟩
  · rintro ⟨h3, h6, h7⟩
    ext k hk
    interval_cases k <;> simp [h3, h6, h7]

/-- The layout is told by bit 5 of p0 and by p1, the constant bits of p0 being right. -/
theorem layoutOf_eq_some {p0 p1 : Byte} {layout : ComLayout} :
    layoutOf p0 p1 = some layout ↔
      p0 &&& 0xC8 = 0 ∧ p0[5] = decide (layout = .interlaced) ∧ p1 = remapP1 layout := by
  have hp : remapP1 .progressive = 0x01 := by decide
  have hi : remapP1 .interlaced = 0x01 := by decide
  have hd : remapP1 .dualProgressive = 0x11 := by decide
  unfold layoutOf
  by_cases h1 : p1 = 1#8
  · cases h5 : p0[5] <;> cases layout <;> simp [h1, h5, hp, hi, hd]
  · cases layout <;> simp [h1, hp, hi, hd, and_comm]

/-- The bytes of SetRemapping give its layout back. -/
theorem layoutOf_remap (axis : Axis) (col nib : Direction) (scan : ScanDirection) (layout : ComLayout) :
    layoutOf (remapP0 axis col nib scan layout) (remapP1 layout) = some layout :=
  layoutOf_eq_some.2 ⟨remapConstants_iff.2 (by simp [remapP0_getElem]), by simp [remapP0_getElem], rfl⟩

/-- A first byte with its constant bits right is the assembly of its fields. -/
theorem remapP0_fields {p0 : Byte} {layout : ComLayout} (hc : p0 &&& 0xC8 = 0)
    (hl : p0[5] = decide (layout = .interlaced)) :
    remapP0 (axisOf p0) (columnOf p0) (nibbleDirOf p0) (scanOf p0) layout = p0 := by
  obtain ⟨h3, h6, h7⟩ := remapConstants_iff.1 hc
  ext k hk
  rw [remapP0_getElem]
  interval_cases k <;> simp [h3, h6, h7, hl, axisOf, columnOf, nibbleDirOf, scanOf]

end Sys2Proof.Operands
end

section
/-! SUPPORT. The decoder (30_encoding.md R84, R93): each reader of parameter bytes as one equivalence, what a row of the
opcode map accepts, and the row of an intent's opcode byte. -/

namespace Sys2Proof

open Params Operands

/-! ### The readers, by the number of parameter bytes -/

section
variable {ps : List Byte} {i : Instr}

theorem readNone_eq_some {j : Instr} : readNone j ps = some i ↔ ps = [] ∧ j = i := by
  cases ps <;> simp [readNone]

theorem readOne_eq_some {lo hi : Nat} {mk : Byte → Instr} :
    readOne lo hi mk ps = some i ↔ ∃ v, ps = [v] ∧ inRange lo hi v = true ∧ mk v = i := by
  rcases ps with _ | ⟨v, _ | ⟨_, _⟩⟩ <;> simp [readOne]

theorem readTwo_eq_some {hi : Nat} {mk : Byte → Byte → Instr} :
    readTwo hi mk ps = some i ↔
      ∃ a b, ps = [a, b] ∧ (inRange 0 hi a && inRange 0 hi b) = true ∧ mk a b = i := by
  rcases ps with _ | ⟨a, _ | ⟨b, _ | ⟨_, _⟩⟩⟩ <;> simp [readTwo]

theorem readPartial_eq_some :
    readPartial ps = some i ↔
      ∃ a b, ps = [a, b] ∧ (Instr.enablePartialDisplay a b).wf = true ∧ .enablePartialDisplay a b = i := by
  rcases ps with _ | ⟨a, _ | ⟨b, _ | ⟨_, _⟩⟩⟩ <;> simp [readPartial, Instr.wf]

theorem readRemapping_eq_some :
    readRemapping ps = some i ↔
      ∃ p0 p1 layout, ps = [p0, p1] ∧ layoutOf p0 p1 = some layout ∧
        .setRemapping (axisOf p0) (columnOf p0) (nibbleDirOf p0) (scanOf p0) layout = i := by
  rcases ps with _ | ⟨p0, _ | ⟨p1, _ | ⟨_, _⟩⟩⟩
  case cons.cons.nil => cases h : layoutOf p0 p1 <;> simp [readRemapping, h]
  all_goals simp [readRemapping]

theorem readPhases_eq_some :
    readPhases ps = some i ↔
      ∃ p, ps = [p] ∧ (inRange 2 15 (phase1Field p) && inRange minPhase2 maxPhase2 (phase2Field p)) = true ∧
        .setPhaseLengths (phase1OfField (phase1Field p)) (phase2Field p) = i := by
  rcases ps with _ | ⟨p, _ | ⟨_, _⟩⟩ <;> simp [readPhases]

theorem readClock_eq_some :
    readClock ps = some i ↔
      ∃ p, ps = [p] ∧ inRange 0 maxDivset (p &&& 0x0F) = true ∧ .setClockFoscDivset (p >>> 4) (p &&& 0x0F) = i := by
  rcases ps with _ | ⟨p, _ | ⟨_, _⟩⟩ <;> simp [readClock]

theorem readMux_eq_some :
    readMux ps = some i ↔
      ∃ p, ps = [p] ∧ inRange (minMux - 1) (maxMux - 1) p = true ∧ .setMuxRatio (p + 1) = i := by
  rcases ps with _ | ⟨p, _ | ⟨_, _⟩⟩ <;> simp [readMux]

theorem readBool_eq_some {whenTrue whenFalse : Byte} {mk : Bool → Instr} (h : whenTrue ≠ whenFalse) :
    readBool whenTrue whenFalse mk ps = some i ↔ ∃ b, ps = [if b then whenTrue else whenFalse] ∧ mk b = i := by
  rcases ps with _ | ⟨p, _ | ⟨_, _⟩⟩
  case cons.nil => simp only [readBool, Option.map_eq_some_iff, boolOf_eq_some h, List.cons.injEq, and_true]
  all_goals simp [readBool]

theorem readEnhancements_eq_some :
    readEnhancements ps = some i ↔
      ∃ a b, ps = [extVslByte a, enhLowGsByte b] ∧ .setDisplayEnhancements a b = i := by
  rcases ps with _ | ⟨p0, _ | ⟨p1, _ | ⟨_, _⟩⟩⟩
  case cons.cons.nil =>
    have hvsl (a : Bool) : p0 = extVslByte a ↔ boolOf 0xA0 0xA2 p0 = some a := (boolOf_eq_some (by decide)).symm
    have hgs (b : Bool) : p1 = enhLowGsByte b ↔ boolOf 0xFD 0xB5 p1 = some b := (boolOf_eq_some (by decide)).symm
    simp only [readEnhancements, List.cons.injEq, and_true, hvsl, hgs]
    cases boolOf 0xA0 0xA2 p0 <;> cases boolOf 0xFD 0xB5 p1 <;> simp [-Bool.exists_bool]
  all_goals simp [readEnhancements]

theorem readTable_eq_some : readTable ps = some i ↔ ps.length = gsTableLen ∧ .setGrayScaleTable ps = i := by
  simp [readTable]

end

/-! ### What a row accepts -/

/-- The intent is the canonical one of the wire image that these parameter bytes make under the row's opcode. -/
structure Row.Accepts (r : Row) (ps : List Byte) (i : Instr) : Prop where
  encode : encode i = r.opcode :: ps
  wf : i.wf = true
  extension : i.isExtension = r.extension
  canonical : i.canonical = i

/-- What the row reads, it accepts. -/
def Row.Sound (r : Row) : Prop := ∀ ps i, r.read ps = some i → r.Accepts ps i

section
variable {op : Byte} {n lo hi : Nat} {ext : Bool}

theorem sound_readNone {i : Instr} (h : Row.Accepts ⟨op, n, ext, readNone i⟩ [] i) :
    Row.Sound ⟨op, n, ext, readNone i⟩ := by
  intro ps j hr
  obtain ⟨rfl, rfl⟩ := readNone_eq_some.1 hr
  exact h

theorem sound_readOne {mk : Byte → Instr}
    (h : ∀ v, inRange lo hi v = true → Row.Accepts ⟨op, n, ext, readOne lo hi mk⟩ [v] (mk v)) :
    Row.Sound ⟨op, n, ext, readOne lo hi mk⟩ := by
  intro ps i hr
  obtain ⟨v, rfl, hv, rfl⟩ := readOne_eq_some.1 hr
  exact h v hv

theorem sound_readTwo {mk : Byte → Byte → Instr}
    (h : ∀ a b, (inRange 0 hi a && inRange 0 hi b) = true → Row.Accepts ⟨op, n, ext, readTwo hi mk⟩ [a, b] (mk a b)) :
    Row.Sound ⟨op, n, ext, readTwo hi mk⟩ := by
  intro ps i hr
  obtain ⟨a, b, rfl, hab, rfl⟩ := readTwo_eq_some.1 hr
  exact h a b hab

theorem sound_readBool {whenTrue whenFalse : Byte} {mk : Bool → Instr} (hne : whenTrue ≠ whenFalse)
    (h : ∀ b, Row.Accepts ⟨op, n, ext, readBool whenTrue whenFalse mk⟩ [if b then whenTrue else whenFalse] (mk b)) :
    Row.Sound ⟨op, n, ext, readBool whenTrue whenFalse mk⟩ := by
  intro ps i hr
  obtain ⟨b, rfl, rfl⟩ := (readBool_eq_some hne).1 hr
  exact h b

end

theorem sound_setRemapping : Row.Sound ⟨opcSetRemapping, 2, false, readRemapping⟩ := by
  intro ps i hr
  obtain ⟨p0, p1, layout, rfl, hl, rfl⟩ := readRemapping_eq_some.1 hr
  obtain ⟨hc, h5, rfl⟩ := layoutOf_eq_some.1 hl
  exact ⟨by rw [encode, Instr.params, remapP0_fields hc h5]; rfl, rfl, rfl, rfl⟩

theorem sound_enablePartialDisplay : Row.Sound ⟨opcEnablePartialDisplay, 2, true, readPartial⟩ := by
  intro ps i hr
  obtain ⟨a, b, rfl, hw, rfl⟩ := readPartial_eq_some.1 hr
  exact ⟨rfl, hw, rfl, rfl⟩

theorem sound_setMuxRatio : Row.Sound ⟨opcSetMuxRatio, 1, false, readMux⟩ := by
  intro ps i hr
  obtain ⟨p, rfl, hp, rfl⟩ := readMux_eq_some.1 hr
  have hadd : (p + 1).toNat = (p.toNat + 1) % 256 := BitVec.toNat_add ..
  refine ⟨by rw [encode, Instr.params, muxByte, BitVec.add_sub_cancel]; rfl, ?_, rfl, rfl⟩
  simp only [Instr.wf, inRange_iff, minMux, maxMux] at hp ⊢
  omega

/-- The phase-1 field is read as the odd value of its pair, which is its own canonical form (D32). -/
theorem sound_setPhaseLengths : Row.Sound ⟨opcSetPhaseLengths, 1, false, readPhases⟩ := by
  intro ps i hr
  obtain ⟨p, rfl, hp, rfl⟩ := readPhases_eq_some.1 hr
  have hlt := phase1Field_lt p
  have hval : (phase1OfField (phase1Field p)).toNat = 2 * (phase1Field p).toNat + 1 := phase1OfField_toNat (by omega)
  refine ⟨by rw [encode, Instr.params, phaseByte_fields]; rfl, ?_, rfl,
    by rw [Instr.canonical, phase1OfField_halved (by omega)]⟩
  simp only [Instr.wf, Bool.and_eq_true, inRange_iff, minPhase1, maxPhase1] at hp ⊢
  omega

theorem sound_setClockFoscDivset : Row.Sound ⟨opcSetClockFoscDivset, 1, false, readClock⟩ := by
  intro ps i hr
  obtain ⟨p, rfl, hp, rfl⟩ := readClock_eq_some.1 hr
  have hfosc : (p >>> 4).toNat ≤ 15 := Nat.le_of_lt_succ (phase2Field_lt p)
  exact ⟨by rw [encode, Instr.params, clockByte_nibbles]; rfl,
    Bool.and_eq_true_iff.2 ⟨inRange_iff.2 ⟨Nat.zero_le _, hfosc⟩, hp⟩, rfl, rfl⟩

theorem sound_setDisplayEnhancements : Row.Sound ⟨opcSetDisplayEnhancements, 2, false, readEnhancements⟩ := by
  intro ps i hr
  obtain ⟨a, b, rfl, rfl⟩ := readEnhancements_eq_some.1 hr
  exact ⟨rfl, rfl, rfl, rfl⟩

theorem sound_setGrayScaleTable : Row.Sound ⟨opcSetGrayScaleTable, gsTableLen, true, readTable⟩ := by
  intro ps i hr
  obtain ⟨hl, rfl⟩ := readTable_eq_some.1 hr
  exact ⟨rfl, beq_iff_eq.2 hl, rfl, rfl⟩

theorem rowsAddress_sound : ∀ r ∈ rowsAddress, r.Sound := by
  simp only [rowsAddress, List.forall_mem_cons]
  exact ⟨sound_readTwo fun _ _ h => ⟨rfl, h, rfl, rfl⟩, sound_readNone ⟨rfl, rfl, rfl, rfl⟩,
    sound_readNone ⟨rfl, rfl, rfl, rfl⟩, sound_readTwo fun _ _ h => ⟨rfl, h, rfl, rfl⟩, nofun⟩

theorem rowsGeometry_sound : ∀ r ∈ rowsGeometry, r.Sound := by
  simp only [rowsGeometry, List.forall_mem_cons]
  exact ⟨sound_setRemapping, sound_readOne fun _ h => ⟨rfl, h, rfl, rfl⟩, sound_readOne fun _ h => ⟨rfl, h, rfl, rfl⟩,
    sound_readNone ⟨rfl, rfl, rfl, rfl⟩, sound_readNone ⟨rfl, rfl, rfl, rfl⟩, sound_readNone ⟨rfl, rfl, rfl, rfl⟩,
    sound_readNone ⟨rfl, rfl, rfl, rfl⟩, sound_enablePartialDisplay, sound_readNone ⟨rfl, rfl, rfl, rfl⟩,
    sound_setMuxRatio, nofun⟩

theorem rowsPower_sound : ∀ r ∈ rowsPower, r.Sound := by
  simp only [rowsPower, List.forall_mem_cons]
  exact ⟨sound_readBool (by decide) fun _ => ⟨rfl, rfl, rfl, rfl⟩, sound_readNone ⟨rfl, rfl, rfl, rfl⟩,
    sound_readNone ⟨rfl, rfl, rfl, rfl⟩, sound_setPhaseLengths, sound_setClockFoscDivset,
    sound_setDisplayEnhancements, sound_readOne fun _ h => ⟨rfl, h, rfl, rfl⟩,
    sound_readOne fun _ h => ⟨rfl, h, rfl, rfl⟩, sound_readOne fun _ h => ⟨rfl, h, rfl, rfl⟩,
    sound_readBool (by decide) fun _ => ⟨rfl, rfl, rfl, rfl⟩, nofun⟩

theorem rowsGray_sound : ∀ r ∈ rowsGray, r.Sound := by
  simp only [rowsGray, List.forall_mem_cons]
  exact ⟨sound_readNone ⟨rfl, rfl, rfl, rfl⟩, sound_setGrayScaleTable, sound_readNone ⟨rfl, rfl, rfl, rfl⟩,
    sound_readOne fun _ _ => ⟨rfl, rfl, rfl, rfl⟩, sound_readOne fun _ h => ⟨rfl, h, rfl, rfl⟩, nofun⟩

/-- The opcode map accepts nothing outside the images of the commands' rules (R93). -/
theorem rows_sound {r : Row} (h : r ∈ rows) : r.Sound := by
  simp only [rows, List.mem_append] at h
  obtain ((h | h) | h) | h := h
  · exact rowsAddress_sound r h
  · exact rowsGeometry_sound r h
  · exact rowsPower_sound r h
  · exact rowsGray_sound r h

/-! ### The row of an opcode byte -/

section
variable {ext : Bool} {op : Byte} {r : Row}

theorem rowOf_some (h : rowOf ext op = some r) : r ∈ rows ∧ r.opcode = op ∧ (ext || !r.extension) = true := by
  have hp := List.find?_some h
  rw [Bool.and_eq_true, beq_iff_eq] at hp
  exact ⟨List.mem_of_find?_eq_some h, hp⟩

/-- The row of the whole map is the row where it is admitted: its opcode is no other row's. -/
theorem rowOf_of_admitted (h : rowOf true op = some r) (ha : (ext || !r.extension) = true) : rowOf ext op = some r := by
  obtain ⟨-, hop, -⟩ := rowOf_some h
  obtain ⟨-, before, after, hrows, hbefore⟩ := List.find?_eq_some_iff_append.1 h
  refine List.find?_eq_some_iff_append.2 ⟨by simp [hop, ha], before, after, hrows, fun a hmem => ?_⟩
  have hne : a.opcode ≠ op := by simpa using hbefore a hmem
  simp [hne]

/-- Every row's opcode is in the table of R85, or in that of R86 where it is an extension. -/
theorem row_opcode_mem : ∀ r ∈ rows,
    r.opcode ∈ Machine.coreOpcodes ∨ (r.extension = true ∧ r.opcode ∈ Machine.extensionOpcodes) := by decide

theorem rowOf_isOpcode (h : rowOf ext op = some r) : Machine.IsOpcode ext op := by
  obtain ⟨hr, rfl, ha⟩ := rowOf_some h
  exact (row_opcode_mem r hr).imp_right fun ⟨he, hop⟩ => ⟨by simpa [he] using ha, hop⟩

end

/-- What the decoder answers an intent for: the opcode's row reads the parameter bytes, their number being the row's. -/
theorem decode_cons_eq_instr {ext : Bool} {op : Byte} {ps : List Byte} {i : Instr} :
    decode ext (op :: ps) = .instr i ↔
      ∃ r, rowOf ext op = some r ∧ ps.length = r.paramCount ∧ r.read ps = some i := by
  unfold decode
  cases hr : rowOf ext op with
  | none => simp [hr]
  | some r => by_cases hl : ps.length = r.paramCount <;> cases hread : r.read ps <;> simp [hr, hl, hread]

/-! ### An intent's own row -/

open Laws.WireImage in
/-- The opcode map and the encoder agree on the format of every intent (R84). -/
theorem wireImage_statement : ∀ i : Instr, Statement i
  | .enableGrayScaleTable => enableGrayScaleTable
  | .setColumnAddress start stop => setColumnAddress start stop
  | .writeRam => writeRam
  | .readRam => readRam
  | .setRowAddress start stop => setRowAddress start stop
  | .setRemapping axis col nib scan layout => setRemapping axis col nib scan layout
  | .setStartLine line => setStartLine line
  | .setDisplayOffset line => setDisplayOffset line
  | .setDisplayModeAllOff => setDisplayModeAllOff
  | .setDisplayModeAllOn => setDisplayModeAllOn
  | .setDisplayModeNormal => setDisplayModeNormal
  | .setDisplayModeInverse => setDisplayModeInverse
  | .enablePartialDisplay start stop => enablePartialDisplay start stop
  | .disablePartialDisplay => disablePartialDisplay
  | .functionSelect internalVdd => functionSelect internalVdd
  | .setSleepModeTrue => setSleepModeTrue
  | .setSleepModeFalse => setSleepModeFalse
  | .setPhaseLengths phase1 phase2 => setPhaseLengths phase1 phase2
  | .setClockFoscDivset fosc divset => setClockFoscDivset fosc divset
  | .setDisplayEnhancements extVsl enhLowGs => setDisplayEnhancements extVsl enhLowGs
  | .setSecondPrechargePeriod period => setSecondPrechargePeriod period
  | .setGrayScaleTable table => setGrayScaleTable table
  | .setDefaultGrayScaleTable => setDefaultGrayScaleTable
  | .setPreChargeVoltage v => setPreChargeVoltage v
  | .setComDeselectVoltage v => setComDeselectVoltage v
  | .setContrastCurrent c => setContrastCurrent c
  | .setMasterContrast c => setMasterContrast c
  | .setMuxRatio ratio => setMuxRatio ratio
  | .setCommandLock lock => setCommandLock lock

/-! The readers of packed bytes, on the bytes of a well-formed intent. -/

theorem readRemapping_remap (axis : Axis) (col nib : Direction) (scan : ScanDirection) (layout : ComLayout) :
    readRemapping [remapP0 axis col nib scan layout, remapP1 layout] =
      some (.setRemapping axis col nib scan layout) :=
  readRemapping_eq_some.2 ⟨_, _, layout, rfl, layoutOf_remap .., by simp⟩

theorem readMux_muxByte {ratio : Byte} (hw : (Instr.setMuxRatio ratio).wf = true) :
    readMux [muxByte ratio] = some (.setMuxRatio ratio) := by
  simp only [Instr.wf, inRange_iff, minMux, maxMux] at hw
  have hval := muxByte_toNat (ratio := ratio) (by omega)
  refine readMux_eq_some.2 ⟨_, rfl, inRange_iff.2 ?_, by rw [muxByte, BitVec.sub_add_cancel]⟩
  simp only [minMux, maxMux]
  omega

theorem readClock_clockByte {fosc divset : Byte} (hw : (Instr.setClockFoscDivset fosc divset).wf = true) :
    readClock [clockByte fosc divset] = some (.setClockFoscDivset fosc divset) := by
  obtain ⟨hf, hd⟩ := Bool.and_eq_true_iff.1 hw
  have hf' : fosc.toNat < 16 := Nat.lt_succ_of_le (inRange_iff.1 hf).2
  have hd' : divset.toNat < 16 := Nat.lt_of_le_of_lt (inRange_iff.1 hd).2 (by decide)
  refine readClock_eq_some.2 ⟨_, rfl, ?_, ?_⟩
  · rwa [clockByte_low hf' hd']
  · rw [clockByte_low hf' hd', clockByte_high hf' hd']

theorem readPhases_phaseByte {phase1 phase2 : Byte} (hw : (Instr.setPhaseLengths phase1 phase2).wf = true) :
    readPhases [phaseByte phase1 phase2] = some (Instr.setPhaseLengths phase1 phase2).canonical := by
  obtain ⟨h1, h2⟩ := Bool.and_eq_true_iff.1 hw
  have h2' : phase2.toNat < 16 := Nat.lt_succ_of_le (inRange_iff.1 h2).2
  simp only [inRange_iff, minPhase1, maxPhase1] at h1
  have hhalf := phase1_halved_toNat (phase1 := phase1) (by omega)
  have hfield1 := phase1Field_phaseByte (by omega) (by omega : phase1.toNat ≤ 32) h2'
  have hfield2 := phase2Field_phaseByte (by omega) (by omega : phase1.toNat ≤ 32) h2'
  refine readPhases_eq_some.2 ⟨_, rfl, ?_, by rw [hfield1, hfield2, Instr.canonical]⟩
  rw [hfield1, hfield2, Bool.and_eq_true]
  exact ⟨inRange_iff.2 (by omega), h2⟩

/-- The row of a well-formed intent's opcode reads its parameter bytes as its canonical form. -/
theorem rowOf_reads_params {i : Instr} (hw : i.wf = true) :
    ∃ r, rowOf true i.opcode = some r ∧ r.read i.params = some i.canonical := by
  cases i with
  | enableGrayScaleTable | writeRam | readRam | setDisplayModeAllOff | setDisplayModeAllOn | setDisplayModeNormal
  | setDisplayModeInverse | disablePartialDisplay | setSleepModeTrue | setSleepModeFalse
  | setDefaultGrayScaleTable => exact ⟨_, rfl, readNone_eq_some.2 ⟨rfl, rfl⟩⟩
  | setColumnAddress a b | setRowAddress a b => exact ⟨_, rfl, readTwo_eq_some.2 ⟨a, b, rfl, hw, rfl⟩⟩
  | setStartLine v | setDisplayOffset v | setSecondPrechargePeriod v | setPreChargeVoltage v
  | setComDeselectVoltage v | setMasterContrast v => exact ⟨_, rfl, readOne_eq_some.2 ⟨v, rfl, hw, rfl⟩⟩
  | setContrastCurrent c =>
    exact ⟨_, rfl, readOne_eq_some.2 ⟨c, rfl, inRange_iff.2 ⟨Nat.zero_le _, Nat.le_of_lt_succ c.isLt⟩, rfl⟩⟩
  | functionSelect b | setCommandLock b => exact ⟨_, rfl, (readBool_eq_some (by decide)).2 ⟨b, rfl, rfl⟩⟩
  | setDisplayEnhancements a b => exact ⟨_, rfl, readEnhancements_eq_some.2 ⟨a, b, rfl, rfl⟩⟩
  | enablePartialDisplay a b => exact ⟨_, rfl, readPartial_eq_some.2 ⟨a, b, rfl, hw, rfl⟩⟩
  | setGrayScaleTable table => exact ⟨_, rfl, readTable_eq_some.2 ⟨beq_iff_eq.1 hw, rfl⟩⟩
  | setRemapping axis col nib scan layout => exact ⟨_, rfl, readRemapping_remap axis col nib scan layout⟩
  | setMuxRatio ratio => exact ⟨_, rfl, readMux_muxByte hw⟩
  | setClockFoscDivset fosc divset => exact ⟨_, rfl, readClock_clockByte hw⟩
  | setPhaseLengths phase1 phase2 => exact ⟨_, rfl, readPhases_phaseByte hw⟩

theorem decode_encode {ext : Bool} {i : Instr} (ha : i.admitted ext = true) (hw : i.wf = true) :
    decode ext (encode i) = .instr i.canonical := by
  obtain ⟨r, hr, hread⟩ := rowOf_reads_params hw
  obtain ⟨r', hr', he, hc, -⟩ := wireImage_statement i hw
  obtain rfl : r = r' := Option.some.inj (hr.symm.trans hr')
  exact decode_cons_eq_instr.2 ⟨r, rowOf_of_admitted hr (he ▸ ha), hc.symm, hread⟩

/-! ### The canonical form (D32) -/

theorem canonical_setPhaseLengths {phase1 phase2 : Byte} (h : 1 ≤ phase1.toNat) :
    (Instr.setPhaseLengths phase1 phase2).canonical =
      .setPhaseLengths (BitVec.ofNat 8 (2 * ((phase1.toNat - 1) / 2) + 1)) phase2 := by
  have hlt := phase1.isLt
  have hhalf := phase1_halved_toNat h
  have hval : phase1OfField ((phase1 - 1) >>> 1) = BitVec.ofNat 8 (2 * ((phase1.toNat - 1) / 2) + 1) := by
    apply BitVec.eq_of_toNat_eq
    rw [phase1OfField_toNat (by omega), hhalf, BitVec.toNat_ofNat]
    omega
  rw [Instr.canonical, hval]

theorem canonical_eq_self {i : Instr} (h : ∀ phase1 phase2, i ≠ .setPhaseLengths phase1 phase2) :
    i.canonical = i := by
  unfold Instr.canonical
  split
  · exact absurd rfl (h _ _)
  · rfl

/-- Only a SetPhaseLengths has a canonical form that is one. -/
theorem canonical_eq_setPhaseLengths {i : Instr} {phase1 phase2 : Byte}
    (h : i.canonical = .setPhaseLengths phase1 phase2) : ∃ p, i = .setPhaseLengths p phase2 := by
  unfold Instr.canonical at h
  split at h
  case h_1 p p2 =>
    obtain ⟨-, rfl⟩ := Instr.setPhaseLengths.inj h
    exact ⟨p, rfl⟩
  case h_2 => exact ⟨phase1, h⟩

theorem phase1_pos_of_wf {phase1 phase2 : Byte} (h : (Instr.setPhaseLengths phase1 phase2).wf = true) :
    1 ≤ phase1.toNat := by
  obtain ⟨h1, -⟩ := Bool.and_eq_true_iff.1 h
  simp only [inRange_iff, minPhase1] at h1
  omega

/-- The canonical odd value tells the pair of phase 1 (R94). -/
theorem phase1_pair_eq {p q : Byte}
    (h : BitVec.ofNat 8 (2 * ((p.toNat - 1) / 2) + 1) = BitVec.ofNat 8 (2 * ((q.toNat - 1) / 2) + 1)) :
    (p.toNat - 1) / 2 = (q.toNat - 1) / 2 := by
  have hval := congrArg BitVec.toNat h
  have hp := p.isLt
  have hq := q.isLt
  simp only [BitVec.toNat_ofNat] at hval
  omega

end Sys2Proof

namespace Sys2Proof.Machine

/-! ### The obligations -/

/-- Settles O20: the row of the intent's opcode reads its parameter bytes back, field by field. -/
theorem decodeOfEncode : Obligations.DecodeOfEncode := by
  intro ext i ha hw
  refine ⟨decode_encode ha hw, ?_, canonical_eq_self⟩
  rintro phase1 phase2 rfl
  exact canonical_setPhaseLengths (phase1_pos_of_wf hw)

/-- Settles O21: the row that reads the parameter bytes accepts only the wire image of what it answers. -/
theorem encodeOfDecode : Obligations.EncodeOfDecode := by
  intro ext bytes i h
  cases bytes with
  | nil => cases h
  | cons op ps =>
    obtain ⟨r, hr, -, hread⟩ := decode_cons_eq_instr.1 h
    obtain ⟨hmem, rfl, ha⟩ := rowOf_some hr
    obtain ⟨henc, hwf, hext, hcan⟩ := rows_sound hmem ps i hread
    exact ⟨henc, hwf, by rwa [Instr.admitted, hext], hcan⟩

/-- Settles O22: the opcode map has no row for such a byte. -/
theorem decodeRefusesUnknownOpcode : Obligations.DecodeRefusesUnknownOpcode := by
  intro ext op ps h
  have hnone : rowOf ext op = none := Option.eq_none_iff_forall_ne_some.2 fun _ hr => h (rowOf_isOpcode hr)
  rw [decode, hnone]

/-- Settles O24: both wire images have the length of the one row of their opcode byte. -/
theorem lengthFromOpcode : Obligations.LengthFromOpcode := by
  intro i j hi hj hop
  obtain ⟨r, hr, -, -, hri⟩ := wireImage_statement i hi
  obtain ⟨r', hr', -, -, hrj⟩ := wireImage_statement j hj
  obtain rfl : r = r' := Option.some.inj (hr.symm.trans (hop ▸ hr'))
  rw [hri, hrj]

/-- Settles O25: equal wire images decode to equal canonical forms, which leave open only the pair of phase 1. -/
theorem encodeInjectiveUpToPhasePairs : Obligations.EncodeInjectiveUpToPhasePairs := by
  intro i j hi hj h
  have hcan : i.canonical = j.canonical := by
    have hdec := decode_encode (ext := true) rfl hi
    rw [h, decode_encode rfl hj] at hdec
    exact (Decoded.instr.inj hdec).symm
  by_cases hphases : ∃ p phase2, i = .setPhaseLengths p phase2
  · obtain ⟨p, phase2, rfl⟩ := hphases
    rw [canonical_setPhaseLengths (phase1_pos_of_wf hi)] at hcan
    obtain ⟨q, rfl⟩ := canonical_eq_setPhaseLengths hcan.symm
    rw [canonical_setPhaseLengths (phase1_pos_of_wf hj)] at hcan
    exact .inr ⟨p, q, phase2, rfl, rfl, phase1_pair_eq (Instr.setPhaseLengths.inj hcan).1⟩
  · have hi' : i.canonical = i := canonical_eq_self (by simpa using hphases)
    have hj' : j.canonical = j :=
      canonical_eq_self fun _ phase2 e => hphases ⟨_, phase2, hi'.symm.trans (e ▸ hcan)⟩
    exact .inl (hi'.symm.trans (hcan.trans hj'))

/-- Settles O23, by running the decoder. -/
theorem decodeSampleWords : Obligations.DecodeSampleWords := by
  unfold Obligations.DecodeSampleWords
  decide

end Sys2Proof.Machine
end

section
/-! SUPPORT. The codec's answer to an intent, by the ranges of its parameters, and the obligation of the address file
(40_address_and_ram_commands.md). -/

namespace Sys2Proof.Machine

open Operands

/-! ### What exec answers -/

/-- An admitted intent completes with the codec's result (R86). -/
theorem exec_answers_codec {i : Instr} {s : State} (ha : i.admitted s.config.extCommands = true) :
    exec i s = answers s (codec i) := by
  rw [exec_eq, if_pos ha]
  rfl

/-- No other intent has the opcode of the gray-scale table, the one with another error (R202). -/
theorem isExtension_of_opcode_setGrayScaleTable {i : Instr} (h : i.opcode = Params.opcSetGrayScaleTable) :
    i.isExtension = true := by
  cases i with
  | setGrayScaleTable _ => rfl
  | _ => exact absurd h (by simp only [Instr.opcode]; decide)

/-- An intent of the base command set, whose parameters lie in their ranges exactly under `p`, completes with its wire
image under `p` and with OutOfRange otherwise (R83, R201). -/
theorem exec_answers_of_wf_iff {i : Instr} {p : Prop} [Decidable p] (hbase : i.isExtension = false)
    (hwf : i.wf = true ↔ p) (s : State) :
    exec i s = answers s (if p then .ok ⟨i.opcode, i.params⟩ else .err .outOfRange) := by
  have hadmitted : i.admitted s.config.extCommands = true := by simp [Instr.admitted, hbase]
  have hopcode : i.opcode ≠ Params.opcSetGrayScaleTable := fun h => by
    simp [isExtension_of_opcode_setGrayScaleTable h] at hbase
  rw [exec_answers_codec hadmitted, codec_eq, if_neg hopcode]
  simp only [hwf]

/-! ### The ranges of the address commands (R110) -/

/-- R110: each bound on its own, no order check. -/
theorem setColumnAddress_wf_iff {start stop : Byte} :
    (Instr.setColumnAddress start stop).wf = true ↔ start.toNat ≤ 119 ∧ stop.toNat ≤ 119 := by
  simp [Instr.wf, inRange_iff, Params.maxColumn]

/-! ### The obligation -/

/-- Settles O1: SetColumnAddress is of the base command set, and its parameters are in range up to column 119. -/
theorem setColumnAddressResult : Obligations.SetColumnAddressResult := by
  intro start stop s
  exact exec_answers_of_wf_iff rfl setColumnAddress_wf_iff s

end Sys2Proof.Machine
end

section
/-! SUPPORT. The display geometry file (41_display_geometry_commands.md): the range and the parameter byte of
SetMuxRatio, and the obligation on its result. -/

namespace Sys2Proof.Machine

open Operands

/-- R126: the admitted ratios. -/
theorem setMuxRatio_wf_iff {ratio : Byte} :
    (Instr.setMuxRatio ratio).wf = true ↔ 16 ≤ ratio.toNat ∧ ratio.toNat ≤ 128 := by
  simp [Instr.wf, inRange_iff, Params.minMux, Params.maxMux]

/-- But for ratio 0, where the byte wraps, the parameter byte is the natural-number predecessor (R88). -/
theorem muxByte_eq_ofNat_pred {ratio : Byte} (h : 1 ≤ ratio.toNat) :
    muxByte ratio = BitVec.ofNat 8 (ratio.toNat - 1) := by
  rw [← muxByte_toNat h, BitVec.ofNat_toNat, BitVec.setWidth_eq]

/-- Settles O8: SetMuxRatio is of the base command set, and no ratio in its range makes the subtraction wrap. -/
theorem setMuxRatioResult : Obligations.SetMuxRatioResult := by
  intro ratio s
  rw [exec_answers_of_wf_iff rfl setMuxRatio_wf_iff s]
  split
  case isTrue h =>
    obtain ⟨hlow, -⟩ := h
    have hpos : 1 ≤ ratio.toNat := Nat.le_trans (by decide) hlow
    rw [Instr.opcode, Instr.params, muxByte_eq_ofNat_pred hpos]
  case isFalse => rfl

end Sys2Proof.Machine
end

section
/-! SUPPORT. The nibbles of a byte (20_memory.md R53): a byte is its two pixels, and what a byte is after one of them is
replaced or both are filled. -/

namespace Sys2Proof.Operands

/-- Only the parity of the column tells which nibble a pixel occupies. -/
theorem nibbleOf_congr (b : Byte) {x x' : Nat} (h : x % 2 = x' % 2) : nibbleOf b x = nibbleOf b x' := by
  unfold nibbleOf; rw [h]

theorem nibbleOf_append (hi lo : Nibble) (x : Nat) : nibbleOf (hi ++ lo) x = if x % 2 = 0 then hi else lo := by
  unfold nibbleOf
  split
  · exact BitVec.extractLsb'_append_eq_left
  · exact BitVec.extractLsb'_append_eq_right

/-- The even pixel in the high nibble, the odd one in the low nibble. -/
theorem byte_eq_nibbles (b : Byte) : b = nibbleOf b 0 ++ nibbleOf b 1 :=
  byte_ext_nibbles (by rw [nibbleOf_append]; rfl) (by rw [nibbleOf_append]; rfl)

theorem fillByte_eq_append (color : Nibble) : fillByte color = color ++ color := by
  rw [byte_eq_nibbles (fillByte color), nibbleOf_fillByte, nibbleOf_fillByte]

/-- R155: the color goes to the side of the column's parity, the other nibble stays. -/
theorem withNibble_eq_append (old : Byte) (x : Nat) (color : Nibble) :
    withNibble old x color = if x % 2 = 0 then color ++ old.extractLsb' 0 4 else old.extractLsb' 4 4 ++ color := by
  have hsame := nibbleOf_withNibble_same old x color
  rw [byte_eq_nibbles (withNibble old x color)]
  split
  case isTrue heven =>
    rw [← nibbleOf_congr _ heven, hsame, nibbleOf_withNibble_other old color (x' := 1) (by omega)]
    rfl
  case isFalse hodd =>
    have hx : x % 2 = 1 % 2 := by omega
    rw [← nibbleOf_congr _ hx, hsame, nibbleOf_withNibble_other old color (x' := 0) (by omega)]
    rfl

end Sys2Proof.Operands
end

section
/-! SUPPORT. The Frame Store operations (44_frame_store_operations.md): the pixels of one store, what a write of a pixel
and a fill do to its bytes and pixels, each operation as one equation on a legal store, and the obligations of the
file. -/

namespace Sys2Proof.Machine

open Operands

/-! ### The pixels of a store (R52, R53) -/

/-- The value of a pixel of one store, none out of bounds. -/
def FrameStore.pixel (f : FrameStore) (x y : Nat) : Option Nibble :=
  if x < f.width ∧ y < f.height then (f.memRead (byteIndex f.width x y)).map (nibbleOf · x) else none

/-- The store with one pixel replaced, as set_pixel leaves it in bounds. -/
def FrameStore.withPixel (f : FrameStore) (x y : Nat) (color : Nibble) : FrameStore :=
  { f with
    mem := f.mem.write (byteIndex f.width x y) (withNibble (f.mem.read (byteIndex f.width x y)) x color) }

section
variable {f : FrameStore} {x y x' y' : Nat}

theorem FrameStore.pixel_outOfBounds (hb : ¬ (x < f.width ∧ y < f.height)) : f.pixel x y = none := if_neg hb

theorem FrameStore.pixel_of_memRead {b : Byte} (hb : x < f.width ∧ y < f.height)
    (hread : f.memRead (byteIndex f.width x y) = some b) : f.pixel x y = some (nibbleOf b x) := by
  rw [FrameStore.pixel, if_pos hb, hread, Option.map_some]

/-- The byte of an in-bounds pixel lies in the buffer (R52). -/
theorem FrameStore.memRead_byteIndex (hd : dimsWf f.width f.height = true) (hb : x < f.width ∧ y < f.height) :
    f.memRead (byteIndex f.width x y) = some (f.mem.read (byteIndex f.width x y)) :=
  FrameStore.memRead_of_lt (FrameStore.byteIndex_lt hd (FrameStore.inBounds_iff.2 hb))

theorem FrameStore.pixel_inBounds (hd : dimsWf f.width f.height = true) (hb : x < f.width ∧ y < f.height) :
    f.pixel x y = some (nibbleOf (f.mem.read (byteIndex f.width x y)) x) :=
  FrameStore.pixel_of_memRead hb (FrameStore.memRead_byteIndex hd hb)

theorem FrameStore.pixel_ne_none_iff (hd : dimsWf f.width f.height = true) :
    f.pixel x y ≠ none ↔ x < f.width ∧ y < f.height := by
  by_cases hb : x < f.width ∧ y < f.height
  · simp [FrameStore.pixel_inBounds hd hb, hb]
  · simp [FrameStore.pixel_outOfBounds hb, hb]

/-- The two pixels of byte `i`, named by `half` (R54). -/
theorem FrameStore.pixel_of_byte (hd : dimsWf f.width f.height = true) {i half : Nat} (hi : i < f.len)
    (hhalf : half < 2) :
    f.pixel (2 * i % f.width + half) (2 * i / f.width) = some (nibbleOf (f.mem.read i) half) := by
  obtain ⟨hw, hw2, -⟩ := dimsWf_iff.1 hd
  have hparity : (2 * i % f.width + half) % 2 = half % 2 := by
    rw [pixelColumn_parity hw hhalf, Nat.mod_eq_of_lt hhalf]
  rw [FrameStore.pixel_inBounds hd ⟨pixelColumn_lt hw (by omega) hhalf, pixelRow_lt hi⟩, byteIndex_pixel hhalf,
    nibbleOf_congr _ hparity]

/-! ### A pixel written -/

@[simp] theorem FrameStore.withPixel_width (color : Nibble) : (f.withPixel x y color).width = f.width := rfl
@[simp] theorem FrameStore.withPixel_height (color : Nibble) : (f.withPixel x y color).height = f.height := rfl

/-- Exactly the pixel's byte changes (R155). -/
theorem FrameStore.memRead_withPixel (hf : f.wf) (hb : x < f.width ∧ y < f.height) (color : Nibble) (a : Nat) :
    (f.withPixel x y color).memRead a =
      if a = byteIndex f.width x y then (f.memRead a).map (withNibble · x color) else f.memRead a := by
  have hwrite : f.memWrite (byteIndex f.width x y) (withNibble (f.mem.read (byteIndex f.width x y)) x color) =
      some (f.withPixel x y color) :=
    FrameStore.memWrite_of_lt (FrameStore.byteIndex_lt hf.1 (FrameStore.inBounds_iff.2 hb))
  rw [FrameStore.memRead_memWrite hf hwrite]
  split
  case isTrue ha => rw [ha, FrameStore.memRead_byteIndex hf.1 hb, Option.map_some]
  case isFalse => rfl

theorem FrameStore.pixel_withPixel_same (hf : f.wf) (hb : x < f.width ∧ y < f.height) (color : Nibble) :
    (f.withPixel x y color).pixel x y = some color := by
  have hread := FrameStore.memRead_withPixel hf hb color (byteIndex f.width x y)
  rw [if_pos rfl, FrameStore.memRead_byteIndex hf.1 hb, Option.map_some] at hread
  rw [FrameStore.pixel_of_memRead (f := f.withPixel x y color) hb hread, nibbleOf_withNibble_same]

/-- Another pixel has another byte, or the other nibble of the same byte (R54). -/
theorem FrameStore.pixel_withPixel_other (hf : f.wf) (hb : x < f.width ∧ y < f.height) (color : Nibble)
    (hne : (x', y') ≠ (x, y)) : (f.withPixel x y color).pixel x' y' = f.pixel x' y' := by
  obtain ⟨hw, -, -⟩ := dimsWf_iff.1 hf.1
  rw [FrameStore.pixel, FrameStore.pixel, FrameStore.withPixel_width, FrameStore.withPixel_height]
  by_cases hb' : x' < f.width ∧ y' < f.height
  case neg => rw [if_neg hb', if_neg hb']
  case pos =>
    rw [if_pos hb', if_pos hb', FrameStore.memRead_withPixel hf hb]
    split
    case isFalse => rfl
    case isTrue hbyte =>
      have hside : x % 2 ≠ x' % 2 := fun hparity => by
        obtain ⟨hrow, hhalf⟩ := byteIndex_inj hw hb'.1 hb.1 hbyte
        exact hne (Prod.ext (by omega) hrow)
      simp [Function.comp_def, nibbleOf_withNibble_other _ color hside]

/-! ### A store filled -/

/-- A fill overwrites whatever was there (R156). -/
theorem FrameStore.fill_fill (f : FrameStore) (b b' : Byte) : (f.fill b).fill b' = f.fill b' := rfl

theorem FrameStore.pixel_fill (hd : dimsWf f.width f.height = true) (hb : x < f.width ∧ y < f.height)
    (color : Nibble) : (f.fill (fillByte color)).pixel x y = some color := by
  have hread := FrameStore.memRead_fill (f := f) (fillByte color) (byteIndex f.width x y)
  rw [if_pos (FrameStore.byteIndex_lt hd (FrameStore.inBounds_iff.2 hb))] at hread
  rw [FrameStore.pixel_of_memRead (f := f.fill (fillByte color)) hb hread, nibbleOf_fillByte]

end

/-! ### The pixels of the state -/

section
variable {s t : State} {k x y : Nat} {f : FrameStore} {color : Nibble} {rest : List Request}

theorem State.pixel_of_store (hk : s.stores[k]? = some f) (x y : Nat) : s.pixel k x y = f.pixel x y := by
  rw [State.pixel, hk]; rfl

theorem State.pixel_congr (h : t.stores[k]? = s.stores[k]?) (x y : Nat) : t.pixel k x y = s.pixel k x y := by
  unfold State.pixel; rw [h]

theorem State.setStore_getElem?_same (hk : s.stores[k]? = some f) (f' : FrameStore) :
    (s.setStore k f').stores[k]? = some f' := by
  obtain ⟨hlt, -⟩ := List.getElem?_eq_some_iff.1 hk
  simp [hlt]

theorem State.setStore_self (hk : s.stores[k]? = some f) : s.setStore k f = s := by
  obtain ⟨hlt, rfl⟩ := List.getElem?_eq_some_iff.1 hk
  rw [State.setStore, List.set_getElem_self]

theorem State.setStore_getElem?_other {k' : Nat} (hne : k' ≠ k) (f' : FrameStore) :
    (s.setStore k f').stores[k']? = s.stores[k']? :=
  List.getElem?_set_ne hne.symm

/-! ### The steps -/

theorem step_setPixel (hr : s.requests = .frameStore (.setPixel k x y color) :: rest) :
    step s = opSetPixel k x y color (s.setRequests rest) := step_serves hr

theorem step_setPixel_inBounds (hr : s.requests = .frameStore (.setPixel k x y color) :: rest)
    (hk : s.stores[k]? = some f) (hf : f.wf) (hb : x < f.width ∧ y < f.height) :
    step s = .next ((s.setRequests rest).setStore k (f.withPixel x y color)) := by
  rw [step_setPixel hr]
  exact opSetPixel_inBounds (s := s.setRequests rest) hk hf.1 (FrameStore.inBounds_iff.2 hb) color

theorem step_setPixel_outOfBounds (hr : s.requests = .frameStore (.setPixel k x y color) :: rest)
    (hk : s.stores[k]? = some f) (hb : ¬ (x < f.width ∧ y < f.height)) : step s = .next (s.setRequests rest) := by
  rw [step_setPixel hr]
  exact opSetPixel_outOfBounds (s := s.setRequests rest) hk (mt FrameStore.inBounds_iff.1 hb) color

theorem step_clear (hr : s.requests = .frameStore (.clear k color) :: rest) (hk : s.stores[k]? = some f) :
    step s = .next ((s.setRequests rest).setStore k (f.fill (fillByte color))) :=
  (step_serves hr).trans (State.onStore_some (s.setRequests rest) hk _)

/-- A clear of a store that is filled with its color already is a fixed point (R156). -/
theorem step_clear_filled (hr : s.requests = .frameStore (.clear k color) :: rest)
    (hk : s.stores[k]? = some (f.fill (fillByte color))) : step s = .next (s.setRequests rest) := by
  rw [step_clear hr hk, FrameStore.fill_fill, State.setStore_self (s := s.setRequests rest) hk]

/-- `get_pixel` delivers the pixel's value, in bounds and out (R157, D15). -/
theorem step_getPixel (hr : s.requests = .frameStore (.getPixel k x y) :: rest) (hk : s.stores[k]? = some f)
    (hf : f.wf) : step s = .next ((s.setRequests rest).deliver (.pixel (s.pixel k x y))) := by
  have hserved : step s = opGetPixel k x y (s.setRequests rest) := step_serves hr
  rw [hserved, State.pixel_of_store hk]
  by_cases hb : x < f.width ∧ y < f.height
  · rw [FrameStore.pixel_inBounds hf.1 hb]
    exact opGetPixel_inBounds (s := s.setRequests rest) hk hf.1 (FrameStore.inBounds_iff.2 hb)
  · rw [FrameStore.pixel_outOfBounds hb]
    exact opGetPixel_outOfBounds (s := s.setRequests rest) hk (mt FrameStore.inBounds_iff.1 hb)

theorem step_dims (hr : s.requests = .frameStore (.dims k) :: rest) (hk : s.stores[k]? = some f) :
    step s = .next ((s.setRequests rest).deliver (.dims f.width f.height)) :=
  (step_serves hr).trans (State.onStore_some (s.setRequests rest) hk _)

theorem step_readout (hr : s.requests = .frameStore (.readout k) :: rest) (hk : s.stores[k]? = some f) :
    step s = .next ((s.setRequests rest).deliver (.bytes f.readout)) :=
  (step_serves hr).trans (State.onStore_some (s.setRequests rest) hk _)

end

/-! ### The obligations -/

/-- Settles O29, by the bounds test: in bounds the store with the pixel replaced is put back, out of bounds nothing. -/
theorem setPixelResult : Obligations.SetPixelResult := by
  intro s k x y color rest f hr hk hf
  split
  case isTrue hb =>
    refine ⟨f.withPixel x y color, step_setPixel_inBounds hr hk hf hb, rfl, rfl, fun a => ?_⟩
    rw [FrameStore.memRead_withPixel hf hb]
    simp only [withNibble_eq_append, byteIndex]
  case isFalse hb => exact step_setPixel_outOfBounds hr hk hb

/-- Settles O30: the store is filled with the color's byte, and a second fill leaves the same store in its place. -/
theorem clearResult : Obligations.ClearResult := by
  intro s k color rest f hr hk
  have hstore := State.setStore_getElem?_same hk (f.fill (fillByte color))
  refine ⟨f.fill (fillByte color), step_clear hr hk, rfl, rfl, fun a => ?_, fun _ => step_clear_filled rfl hstore⟩
  rw [FrameStore.memRead_fill, fillByte_eq_append, FrameStore.len]

/-- Settles O31: what is delivered is the pixel of the state, which has a value exactly in bounds. -/
theorem getPixelResult : Obligations.GetPixelResult := by
  intro s k x y rest f hr hk hf
  refine ⟨step_getPixel hr hk hf, ?_⟩
  rw [State.pixel_of_store hk, FrameStore.pixel_ne_none_iff hf.1]

/-- Settles O32: dims delivers the dimensions of the store it names. -/
theorem dimsResult : Obligations.DimsResult := fun _ _ _ _ hr hk => step_dims hr hk

/-- Settles O33: the bytes delivered are the readout of the store. -/
theorem readoutResult : Obligations.ReadoutResult := fun _ _ _ f hr hk =>
  ⟨f.readout, step_readout hr hk, FrameStore.readout_length, FrameStore.readout_getElem?⟩

/-- Settles O34: in the store written, by the pixel's own nibble and every other one; the other stores are as before. -/
theorem setPixelReadsBack : Obligations.SetPixelReadsBack := by
  intro s k x y color rest f hr hk hf hx hy
  have hstore := State.setStore_getElem?_same (s := s.setRequests rest) hk (f.withPixel x y color)
  refine ⟨_, step_setPixel_inBounds hr hk hf ⟨hx, hy⟩, ?_, fun k' x' y' hne => ?_⟩
  · rw [State.pixel_of_store hstore, FrameStore.pixel_withPixel_same hf ⟨hx, hy⟩]
  · by_cases hk' : k' = k
    · subst hk'
      have hpixel : (x', y') ≠ (x, y) := fun h => hne (congrArg (Prod.mk k') h)
      rw [State.pixel_of_store hstore, State.pixel_of_store hk,
        FrameStore.pixel_withPixel_other hf ⟨hx, hy⟩ color hpixel]
    · exact State.pixel_congr (State.setStore_getElem?_other hk' _) x' y'

/-- Settles O35: the store cleared is filled with the color in both nibbles; the other stores are as before. -/
theorem clearReadsBack : Obligations.ClearReadsBack := by
  intro s k color rest f hr hk hf
  have hstore := State.setStore_getElem?_same (s := s.setRequests rest) hk (f.fill (fillByte color))
  refine ⟨_, step_clear hr hk, fun x y hx hy => ?_, fun k' x y hk' => ?_⟩
  · rw [State.pixel_of_store hstore, FrameStore.pixel_fill hf.1 ⟨hx, hy⟩]
  · exact State.pixel_congr (State.setStore_getElem?_other hk' _) x y

/-- Settles O36: a byte is its two nibbles, and the pixels named are the ones that occupy them. -/
theorem bytePacksTwoPixels : Obligations.BytePacksTwoPixels := by
  intro s k i f hk hf hi
  refine ⟨nibbleOf (f.mem.read i) 0, nibbleOf (f.mem.read i) 1, ?_, ?_, ?_⟩
  · rw [State.pixel_of_store hk]; exact FrameStore.pixel_of_byte hf.1 hi (half := 0) (by decide)
  · rw [State.pixel_of_store hk]; exact FrameStore.pixel_of_byte hf.1 hi (half := 1) (by decide)
  · rw [← byte_eq_nibbles, State.readByte, hk]; exact FrameStore.memRead_of_lt hi

end Sys2Proof.Machine
end

section
/-! SUPPORT. The record of the bus (45_session_sequences.md R171, R182): what each elementary effect of a session
sequence adds to the command-level writes, and the obligation that every step keeps them legal. -/

namespace Sys2Proof.Machine

section
variable {ext : Bool} {tr evs : List BusEvent}

theorem CommandWritesLegal.append (h : CommandWritesLegal ext tr) (he : CommandWritesLegal ext evs) :
    CommandWritesLegal ext (tr ++ evs) := fun bytes hb =>
  (List.mem_append.1 hb).elim (h bytes) (he bytes)

/-- Events of which none is a write at the command level say nothing to the claim. -/
theorem commandWritesLegal_of_no_command (h : ∀ bytes, .tx (.driven .low) bytes ∉ evs) : CommandWritesLegal ext evs :=
  fun bytes hb => absurd hb (h bytes)

/-- A framed opcode write (R171). -/
theorem commandWritesLegal_busC {op : Byte} (h : IsSentOpcode ext op) : CommandWritesLegal ext (busC op) := by
  intro bytes hb
  obtain rfl : bytes = [op] := by simpa [busC] using hb
  exact ⟨op, rfl, h⟩

variable {s t : State}

/-- What an elementary effect puts on the bus: nothing, one event that is no write, or one framed write. -/
theorem BusStep.trace_eq (h : BusStep ext s t) : ∃ evs, t.trace = s.trace ++ evs ∧ CommandWritesLegal ext evs := by
  cases h with
  | phase p => exact ⟨[], by simp, commandWritesLegal_nil ext⟩
  | recovered => exact ⟨[], by simp, commandWritesLegal_nil ext⟩
  | orientation o => exact ⟨[], by simp, commandWritesLegal_nil ext⟩
  | pin p l hp => exact ⟨_, State.drive_trace s p l, commandWritesLegal_of_no_command (by simp)⟩
  | delay n => exact ⟨[.delay n], by simp [State.delay_eq], commandWritesLegal_of_no_command (by simp)⟩
  | command op h => exact ⟨busC op, by simp [State.tx_eq, busC], commandWritesLegal_busC h⟩
  | data bytes =>
    exact ⟨busD bytes, by simp [State.tx_eq, busD], commandWritesLegal_of_no_command (by simp [busD])⟩

theorem BusSteps.commandWritesLegal (h : BusSteps ext s t) (hs : CommandWritesLegal ext s.trace) :
    CommandWritesLegal ext t.trace := by
  induction h with
  | refl => exact hs
  | tail _ hstep ih =>
    obtain ⟨evs, htrace, hevs⟩ := hstep.trace_eq
    rw [htrace]
    exact ih.append hevs

end

/-- Ending a session operation puts nothing on the bus. -/
theorem State.finish_trace (s : State) (r : Run) : (s.finish r).trace = r.state.trace := by
  rcases s.finish_cases r with ⟨-, h⟩ | ⟨e, -, h⟩ | ⟨-, h⟩ <;> rw [h] <;> rfl

/-- Settles O57: only a session sequence writes on the bus, and each of its elementary effects keeps the writes
legal. -/
theorem stepKeepsCommandWritesLegal : Obligations.StepKeepsCommandWritesLegal := by
  intro s t hs h
  rcases step_next h with ⟨-, rfl⟩ | ⟨rest, ⟨i, -, -, rfl⟩ | ⟨op, -, h⟩ | ⟨op, r, -, -, hl, rfl⟩⟩
  · exact hs
  · exact hs
  · obtain ⟨fs, rs, rfl, -⟩ := serveFrameStore_eq h
    exact hs
  · rw [hl.finish_frame.config, State.finish_trace]
    exact hl.steps.commandWritesLegal hs

end Sys2Proof.Machine
end

section
/-! SUPPORT. What a session sequence leaves (45_session_sequences.md R171, R172): the state after framed writes, all of
them answered Ok or the last one failed or cancelled, and the framing of commands in terms of it. -/

namespace Sys2Proof

/-- The transport writes the framing of a command needs (R171). -/
def Instr.writes (i : Instr) : Nat := if i.params = [] then 1 else 2

/-- The events of a command's framing (R171). -/
def Instr.busEvents (i : Instr) : List Machine.BusEvent := Machine.busCommand i.opcode i.params

end Sys2Proof

namespace Sys2Proof.Machine

/-! ### The last level a record requests -/

theorem lastLevelFrom_append (p : Pin) (l : LastLevel) (a b : List BusEvent) :
    lastLevelFrom p l (a ++ b) = lastLevelFrom p (lastLevelFrom p l a) b := by
  induction a generalizing l with
  | nil => rfl
  | cons e a ih => cases e <;> exact ih _

/-- A framed command leaves DC at the data level, if it has parameters (R171, D26). -/
theorem lastLevelFrom_busCommand (l : LastLevel) (op : Byte) (params : List Byte) :
    lastLevelFrom .dc l (busCommand op params) = if params = [] then .driven .low else .driven .high := by
  cases params <;> rfl

/-! ### The state after framed writes -/

/-- `s` after the bus events `evs` with `writes` replies of the transport taken: nothing else is changed. -/
def State.sent (s : State) (evs : List BusEvent) (writes : Nat) : State :=
  { s with
    pinDc := lastLevelFrom .dc s.pinDc evs
    trace := s.trace ++ evs
    txReplies := s.txReplies.drop writes }

/-- `s` after the bus events `evs`, of which the last is a write at level `l` that failed or was cancelled, with `more`
replies to come: a recovery is due (U3). -/
def State.stopped (s : State) (l : Level) (evs : List BusEvent) (more : List TxReply) : State :=
  { s with recoveryDue := true, pinDc := .driven l, trace := s.trace ++ evs, txReplies := more }

/-- The environment answers Ok at the next `writes` transport writes. -/
def State.WritesOk (s : State) (writes : Nat) : Prop := ∀ r ∈ s.txReplies.take writes, r = .ok

section
variable {s : State}

theorem State.sent_nil (s : State) : s.sent [] 0 = s := by
  simp [State.sent, lastLevelFrom]

theorem State.sent_sent (s : State) (a b : List BusEvent) (m n : Nat) :
    (s.sent a m).sent b n = s.sent (a ++ b) (m + n) := by
  simp [State.sent, lastLevelFrom_append, List.append_assoc]

theorem State.sent_stopped (s : State) (a b : List BusEvent) (n : Nat) (l : Level) (more : List TxReply) :
    (s.sent a n).stopped l b more = s.stopped l (a ++ b) more := by
  simp [State.sent, State.stopped, List.append_assoc]

theorem State.WritesOk.mono {m n : Nat} (h : s.WritesOk n) (hmn : m ≤ n) : s.WritesOk m := fun r hr =>
  h r (List.take_subset_take_left _ hmn hr)

theorem State.WritesOk.sent {m n : Nat} (h : s.WritesOk (m + n)) (evs : List BusEvent) : (s.sent evs m).WritesOk n := by
  unfold State.WritesOk at h
  rw [List.take_add] at h
  exact fun r hr => h r (List.mem_append_right _ hr)

theorem State.WritesOk.headD (h : s.WritesOk 1) : s.txReplies.headD .ok = .ok := by
  unfold State.WritesOk at h
  cases hr : s.txReplies with
  | nil => rfl
  | cons r more => exact h r (by simp [hr])

/-- A write at a level, with the DC request before it (R13). -/
theorem drive_tx_eq (s : State) (l : Level) (bytes : List Byte) :
    (s.drive .dc l).tx bytes =
      ⟨(s.sent [.pin .dc l, .tx (.driven l) bytes] 1).setRecoveryDue
        (s.recoveryDue || (s.txReplies.headD .ok).needsRecovery), (s.txReplies.headD .ok).flow⟩ := by
  rw [State.tx_eq]
  simp [State.sent, State.drive, State.setPin, State.logEvent, State.setTxReplies, State.setRecoveryDue, lastLevelFrom]

theorem drive_tx_ok (h : s.WritesOk 1) (l : Level) (bytes : List Byte) :
    (s.drive .dc l).tx bytes = .ok (s.sent [.pin .dc l, .tx (.driven l) bytes] 1) := by
  rw [drive_tx_eq, h.headD, TxReply.needsRecovery, Bool.or_false]
  rfl

/-- A failed or cancelled write stays on the record as requested and leaves a recovery due (U3). -/
theorem drive_tx_stops {r : TxReply} {more : List TxReply} (hr : r.needsRecovery = true) (h : s.txReplies = r :: more)
    (l : Level) (bytes : List Byte) :
    (s.drive .dc l).tx bytes = ⟨s.stopped l [.pin .dc l, .tx (.driven l) bytes] more, r.flow⟩ := by
  rw [drive_tx_eq, h, List.headD_cons, hr, Bool.or_true]
  simp [State.sent, State.stopped, State.setRecoveryDue, lastLevelFrom, h]

theorem writeData_ok (h : s.WritesOk 1) (bytes : List Byte) : writeData bytes s = .ok (s.sent (busD bytes) 1) :=
  drive_tx_ok h _ bytes

/-! ### The framing of a command (R171) -/

variable {i : Instr}

theorem send_of_wf (hw : i.wf = true) (s : State) : send i s = transmit ⟨i.opcode, i.params⟩ s := by
  rw [send, codec_eq, if_pos hw]

/-- Encoding comes before any bus activity (D18). -/
theorem send_of_codec_err {e : EncodingError} (h : codec i = .err e) (s : State) : send i s = ⟨s, .err e.toKind⟩ := by
  rw [send, h]

theorem codec_of_not_wf (hw : i.wf = false) : ∃ e, codec i = .err e :=
  ⟨_, by rw [codec_eq, hw, if_neg Bool.false_ne_true]⟩

theorem send_ok (hw : i.wf = true) (h : s.WritesOk i.writes) : send i s = .ok (s.sent i.busEvents i.writes) := by
  rw [send_of_wf hw, transmit, Instr.writes, Instr.busEvents]
  rw [Instr.writes] at h
  cases hp : i.params with
  | nil =>
    rw [if_pos hp] at h
    rw [drive_tx_ok h]
    rfl
  | cons p ps =>
    rw [if_neg (by simp [hp])] at h
    rw [drive_tx_ok (h.mono (by decide)), Run.ok_andThen]
    dsimp only
    rw [drive_tx_ok (State.WritesOk.sent (m := 1) h _), State.sent_sent]
    rfl

theorem send_opcode_stops {r : TxReply} {more : List TxReply} (hw : i.wf = true) (hr : r.needsRecovery = true)
    (h : s.txReplies = r :: more) :
    send i s = ⟨s.stopped .low (busC i.opcode) more, r.flow⟩ := by
  have hflow : r.flow ≠ .ok := by cases r <;> simp_all [TxReply.needsRecovery, TxReply.flow]
  rw [send_of_wf hw, transmit, drive_tx_stops hr h, Run.andThen_of_not_ok hflow]
  rfl

theorem send_params_stops {r : TxReply} {more : List TxReply} (hw : i.wf = true) (hp : i.params ≠ [])
    (hr : r.needsRecovery = true) (h : s.txReplies = .ok :: r :: more) :
    send i s = ⟨s.stopped .high i.busEvents more, r.flow⟩ := by
  obtain ⟨p, ps, hp⟩ := List.exists_cons_of_ne_nil hp
  have hopcode : s.WritesOk 1 := by simp [State.WritesOk, h]
  have hrest : (s.sent (busC i.opcode) 1).txReplies = r :: more := by simp [State.sent, h]
  rw [send_of_wf hw, transmit, Instr.busEvents, hp, drive_tx_ok hopcode, Run.ok_andThen]
  exact (drive_tx_stops hr hrest _ _).trans (by rw [State.sent_stopped]; rfl)

theorem sendAll_ok {is : List Instr} {n : Nat} (hn : (is.map Instr.writes).sum = n) (hw : ∀ i ∈ is, i.wf = true)
    (h : s.WritesOk n) : sendAll is s = .ok (s.sent (is.flatMap Instr.busEvents) n) := by
  induction is generalizing s n with
  | nil => subst hn; exact congrArg Run.ok s.sent_nil.symm
  | cons i is ih =>
    obtain ⟨hi, his⟩ := List.forall_mem_cons.1 hw
    rw [List.map_cons, List.sum_cons] at hn
    subst hn
    rw [sendAll, send_ok hi (h.mono (Nat.le_add_right _ _)), Run.ok_andThen, ih rfl his (h.sent _), State.sent_sent]
    rfl

/-- A list is sent as its beginning, then the rest. -/
theorem sendAll_append (is js : List Instr) (s : State) :
    sendAll (is ++ js) s = (sendAll is s).andThen (sendAll js) := by
  induction is generalizing s with
  | nil => rfl
  | cons i is ih =>
    rw [List.cons_append, sendAll, sendAll]
    by_cases hf : (send i s).flow = .ok
    · rw [Run.andThen_of_ok hf, Run.andThen_of_ok hf, ih]
    · rw [Run.andThen_of_not_ok hf, Run.andThen_of_not_ok hf, Run.andThen_of_not_ok hf]

/-- A list stops at the first command the codec rejects (R209): the earlier ones are sent. -/
theorem sendAll_rejected {earlier later : List Instr} {bad : Instr} {e : EncodingError} {n : Nat}
    (hn : (earlier.map Instr.writes).sum = n) (hw : ∀ i ∈ earlier, i.wf = true) (hbad : codec bad = .err e)
    (h : s.WritesOk n) :
    sendAll (earlier ++ bad :: later) s = ⟨s.sent (earlier.flatMap Instr.busEvents) n, .err e.toKind⟩ := by
  rw [sendAll_append, sendAll_ok hn hw h, Run.ok_andThen, sendAll, send_of_codec_err hbad, Run.err_andThen]

end

end Sys2Proof.Machine
end

section
/-! SUPPORT. The operations of the session by their phase (45_session_sequences.md R171 to R173, R177, R180): what a
direct send, write_data, flush_buffer and set_orientation do, and their obligations. -/

namespace Sys2Proof.Machine

/-! ### Which operation a step serves, and how it ends -/

section
variable {s : State} {rest : List Request}

theorem step_session {op : SessionOp} (hr : s.requests = .session op :: rest) :
    step s = serveSession op (s.setRequests rest) := step_serves hr

theorem State.inReady_ready (h : s.phase = .ready) (o : Host.Outcome State Fault Refusal) : s.inReady o = o := by
  rw [State.inReady, h]

/-- A direct send where the phase admits it (R180, U3). -/
theorem step_send {i : Instr} (hr : s.requests = .session (.send i) :: rest)
    (hp : s.phase = .ready ∨ s.phase = .reset ∧ s.recoveryDue = false)
    (ha : i.admitted s.config.extCommands = true) : step s = sendDirect i (s.setRequests rest) :=
  (step_session hr).trans (opSend_admitted (s := s.setRequests rest) ha hp)

theorem step_setOrientation {o : Orientation} (hr : s.requests = .session (.setOrientation o) :: rest)
    (hp : s.phase = .ready) :
    step s = .next ((s.setRequests rest).finish (applyOrientation o (s.setRequests rest))) :=
  (step_session hr).trans (State.inReady_ready (s := s.setRequests rest) hp _)

/-- An error of the codec before anything is sent leaves the phase (R210). -/
theorem State.finish_rejected (s : State) (e : EncodingError) :
    s.finish ⟨s, .err e.toKind⟩ = s.deliver (.session (.err e.toKind)) := by
  cases e <;> simp [State.finish, State.takeError, EncodingError.toKind, phaseAfterError, State.setPhase]

end

/-! ### Direct sends -/

/-- Settles O41: a valid command is sent by its framing, all of whose writes are answered Ok. -/
theorem sendResult : Obligations.SendResult := by
  intro s i rest hr hp ha hne hw hok
  have hsend := send_ok (s := s.setRequests rest) hw hok
  rw [step_send hr hp ha, sendDirect_of_ne hne, hsend]
  simp only [State.sent, Instr.busEvents, Instr.writes, lastLevelFrom_busCommand]
  rfl

/-- Settles O42: the send stops at the codec's error, which is the one exec delivers. -/
theorem sendRejectedByCodec : Obligations.SendRejectedByCodec := by
  intro s i rest hr hp ha hw
  obtain ⟨e, he⟩ := codec_of_not_wf hw
  have hne : i ≠ .readRam := by rintro rfl; cases hw
  refine ⟨e, by cases e <;> simp, he ▸ exec_answers_codec ha, ?_⟩
  rw [step_send hr hp ha, sendDirect_of_ne hne, send_of_codec_err he, State.finish_rejected]
  rfl

/-- Settles O43, by the write that stops the send and by how: a failure is delivered, a cancellation is not. -/
theorem sendTransportStops : Obligations.SendTransportStops := by
  intro s i rest more hr hp ha hne hw
  have hstep := (step_send hr hp ha).trans (sendDirect_of_ne hne)
  rw [hstep]
  refine ⟨fun e h => ?_, fun h => ?_, fun e hparams h => ?_, fun hparams h => ?_⟩
  · rw [send_opcode_stops (s := s.setRequests rest) hw rfl h]
    rfl
  · rw [send_opcode_stops (s := s.setRequests rest) hw rfl h]
    rfl
  · rw [send_params_stops (s := s.setRequests rest) hw hparams rfl h]
    rfl
  · rw [send_params_stops (s := s.setRequests rest) hw hparams rfl h]
    rfl

/-! ### write_data and flush_buffer -/

/-- Settles O44: one write at the data level, answered Ok. -/
theorem writeDataResult : Obligations.WriteDataResult := by
  intro s bytes rest hr hp hok
  have hwrite := writeData_ok (s := s.setRequests rest) hok bytes
  rw [step_session hr, serveSession, opWriteData, State.inReady_ready (s := s.setRequests rest) hp, hwrite]
  rfl

theorem send_writeRam_ok {s : State} (h : s.WritesOk 1) : send .writeRam s = .ok (s.sent (busC 0x5C) 1) :=
  send_ok (i := .writeRam) rfl h

/-- The command, then the data (R173). -/
theorem flushBuffer_ok {s : State} (h : s.WritesOk 2) (bytes : List Byte) :
    flushBuffer bytes s = .ok (s.sent (busC 0x5C ++ busD bytes) 2) := by
  rw [flushBuffer, send_writeRam_ok (h.mono (by decide)), Run.ok_andThen,
    writeData_ok (State.WritesOk.sent (m := 1) h _), State.sent_sent]

/-- Settles O45: WriteRam and the data, both answered Ok. -/
theorem flushBufferResult : Obligations.FlushBufferResult := by
  intro s bytes rest hr hp hok
  have hflush := flushBuffer_ok (s := s.setRequests rest) hok bytes
  rw [step_session hr, serveSession, opFlushBuffer, State.inReady_ready (s := s.setRequests rest) hp, hflush,
    List.append_assoc]
  rfl

/-! ### set_orientation -/

/-- The remapping command of an orientation (R177, GK1, GK2). -/
theorem remapPreset_busEvents (o : Orientation) :
    (remapPreset o).busEvents = busCommand 0xA0 [if o = .standard then 0x14 else 0x06, 0x11] := by
  cases o <;> rfl

theorem remapPreset_opcode (o : Orientation) : (remapPreset o).opcode = 0xA0 := by cases o <;> rfl

theorem remapPreset_wf (o : Orientation) : (remapPreset o).wf = true := by cases o <;> rfl

theorem remapPreset_params_ne_nil (o : Orientation) : (remapPreset o).params ≠ [] := by cases o <;> nofun

theorem remapPreset_writes (o : Orientation) : (remapPreset o).writes = 2 := by cases o <;> rfl

theorem applyOrientation_ok {s : State} (o : Orientation) (h : s.WritesOk 2) :
    applyOrientation o s =
      .ok ((s.setOrientation o).sent (busCommand 0xA0 [if o = .standard then 0x14 else 0x06, 0x11]) 2) := by
  rw [applyOrientation, send_ok (remapPreset_wf o) ((remapPreset_writes o).symm ▸ h), remapPreset_busEvents,
    remapPreset_writes]

/-- Settles O46: the field, then the remapping command, whose writes are answered Ok. -/
theorem setOrientationResult : Obligations.SetOrientationResult := by
  intro s o rest hr hp hok
  rw [step_setOrientation hr hp, applyOrientation_ok (s := s.setRequests rest) o hok]
  rfl

/-- Settles O47, by the write that stops the command and by how: the field was written before it. -/
theorem setOrientationFailure : Obligations.SetOrientationFailure := by
  intro s o rest more hr hp
  have hw := remapPreset_wf o
  have hparams := remapPreset_params_ne_nil o
  rw [step_setOrientation hr hp, applyOrientation, ← remapPreset_busEvents]
  refine ⟨fun e h => ?_, fun h => ?_, fun e h => ?_, fun h => ?_⟩
  · rw [send_opcode_stops (s := (s.setRequests rest).setOrientation o) hw rfl h, remapPreset_opcode]
    rfl
  · rw [send_opcode_stops (s := (s.setRequests rest).setOrientation o) hw rfl h, remapPreset_opcode]
    rfl
  · rw [send_params_stops (s := (s.setRequests rest).setOrientation o) hw hparams rfl h]
    rfl
  · rw [send_params_stops (s := (s.setRequests rest).setOrientation o) hw hparams rfl h]
    rfl

end Sys2Proof.Machine
end

section
/-! SUPPORT. The address window and the frame (45_session_sequences.md R178, R179): the session's check in numbers, the
two commands it lets through, and the obligations of set_address_window and flush_frame. -/

namespace Sys2Proof.Machine

/-! ### The window in numbers (R178) -/

section
variable {startX startY width height : Nat}

/-- The four computed values within their limits (R178). -/
theorem windowFits_iff :
    windowFits startX startY width height = true ↔
      (480 - width + startX) / 2 / 4 ≤ 119 ∧ (480 - width + startX) / 2 / 4 + width / 4 - 1 ≤ 119 ∧ startY ≤ 127 ∧
        startY + height - 1 ≤ 127 := by
  simp only [windowFits, Bool.and_eq_true, decide_eq_true_eq, and_assoc]
  rfl

theorem windowDefined_iff : windowDefined width height = true ↔ width ≤ 480 ∧ 1 ≤ height := by
  simp [windowDefined]

/-- A store of at most the panel's width lies between the panel's columns, so only its rows can miss the window. -/
theorem windowFits_origin_iff (hw : width ≤ 480) : windowFits 0 0 width height = true ↔ height ≤ 128 := by
  rw [windowFits_iff]
  omega

theorem windowRows_origin (height : Nat) : windowRows 0 height = .setRowAddress 0 (BitVec.ofNat 8 (height - 1)) := by
  rw [windowRows, windowRowEnd, Nat.zero_add]
  rfl

theorem toNat_ofNat_of_le {n m : Nat} (h : n ≤ m) (hm : m < 256) : (BitVec.ofNat 8 n).toNat ≤ m := by
  rw [BitVec.toNat_ofNat]; omega

/-- The session's check is the codec's own of both commands (R178). -/
theorem windowColumns_wf (h : windowFits startX startY width height = true) :
    (windowColumns startX width).wf = true := by
  obtain ⟨hstart, hstop, -, -⟩ := windowFits_iff.1 h
  exact setColumnAddress_wf_iff.2 ⟨toNat_ofNat_of_le hstart (by decide), toNat_ofNat_of_le hstop (by decide)⟩

theorem setRowAddress_wf_iff {start stop : Byte} :
    (Instr.setRowAddress start stop).wf = true ↔ start.toNat ≤ 127 ∧ stop.toNat ≤ 127 := by
  simp [Instr.wf, Operands.inRange_iff, Params.maxRow]

theorem windowRows_wf (h : windowFits startX startY width height = true) : (windowRows startY height).wf = true := by
  obtain ⟨-, -, hstart, hstop⟩ := windowFits_iff.1 h
  exact setRowAddress_wf_iff.2 ⟨toNat_ofNat_of_le hstart (by decide), toNat_ofNat_of_le hstop (by decide)⟩

end

/-! ### The sequences -/

section
variable {s : State} {startX startY width height : Nat}

/-- The events of the two commands of a window, columns first (D17). -/
def windowEvents (startX startY width height : Nat) : List BusEvent :=
  (windowColumns startX width).busEvents ++ (windowRows startY height).busEvents

theorem addressWindow_ok (hfits : windowFits startX startY width height = true) (h : s.WritesOk 4) :
    addressWindow startX startY width height s = .ok (s.sent (windowEvents startX startY width height) 4) := by
  have hcolumns : send (windowColumns startX width) s = .ok (s.sent (windowColumns startX width).busEvents 2) :=
    send_ok (windowColumns_wf hfits) (h.mono (n := 4) (m := 2) (by decide))
  have hrows := send_ok (windowRows_wf hfits) (State.WritesOk.sent (m := 2) h (windowColumns startX width).busEvents)
  rw [addressWindow, if_pos hfits, hcolumns, Run.ok_andThen, hrows, State.sent_sent]
  rfl

/-- The session's check comes before anything is sent (R178). -/
theorem addressWindow_rejected (hfits : ¬ windowFits startX startY width height = true) (s : State) :
    addressWindow startX startY width height s = ⟨s, .err EncodingError.outOfRange.toKind⟩ := if_neg hfits

theorem flushFrame_ok {f : FrameStore} (hfits : windowFits 0 0 f.width f.height = true) (h : s.WritesOk 6) :
    flushFrame f s =
      .ok (s.sent (windowEvents 0 0 f.width f.height ++ (busC 0x5C ++ busD f.readout)) 6) := by
  have hwindow := addressWindow_ok hfits (h.mono (by decide))
  have hdata := flushBuffer_ok (State.WritesOk.sent (m := 4) h (windowEvents 0 0 f.width f.height)) f.readout
  rw [flushFrame, hwindow, Run.ok_andThen]
  exact hdata.trans (by rw [State.sent_sent])

theorem flushFrame_rejected {f : FrameStore} (hfits : ¬ windowFits 0 0 f.width f.height = true) (s : State) :
    flushFrame f s = ⟨s, .err EncodingError.outOfRange.toKind⟩ := by
  rw [flushFrame, addressWindow_rejected hfits]
  rfl

variable {rest : List Request}

theorem step_setAddressWindow (hr : s.requests = .session (.setAddressWindow startX startY width height) :: rest)
    (hp : s.phase = .ready) (hd : windowDefined width height = true) :
    step s =
      .next ((s.setRequests rest).finish (addressWindow startX startY width height (s.setRequests rest))) := by
  rw [step_session hr, serveSession, opSetAddressWindow, State.inReady_ready (s := s.setRequests rest) hp, if_pos hd]

theorem step_flushFrame {k : Nat} {f : FrameStore} (hr : s.requests = .session (.flushFrame k) :: rest)
    (hp : s.phase = .ready) (hk : s.stores[k]? = some f) (hd : windowDefined f.width f.height = true) :
    step s = .next ((s.setRequests rest).finish (flushFrame f (s.setRequests rest))) := by
  rw [step_session hr, serveSession, opFlushFrame, State.inReady_ready (s := s.setRequests rest) hp,
    State.onStore_some (s.setRequests rest) hk, if_pos hd]

end

/-! ### The obligations -/

/-- Settles O48, by the session's check: a window that fits is sent, another is rejected before anything is. -/
theorem setAddressWindowResult : Obligations.SetAddressWindowResult := by
  intro s startX startY width height offset columnStart columnEnd rowEnd rest hr hp hw hh hoffset hstart hend hrow hok
  subst hoffset hstart hend hrow
  rw [step_setAddressWindow hr hp (windowDefined_iff.2 ⟨hw, hh⟩)]
  split
  case isTrue hmiss =>
    have hfits : ¬ windowFits startX startY width height = true := by rw [windowFits_iff]; omega
    rw [addressWindow_rejected hfits, State.finish_rejected]
    rfl
  case isFalse hmiss =>
    have hfits : windowFits startX startY width height = true := by rw [windowFits_iff]; omega
    rw [addressWindow_ok (s := s.setRequests rest) hfits hok, List.append_assoc]
    rfl

/-- Settles O49, by the height: the window of a store fits exactly up to 128 rows. -/
theorem flushFrameResult : Obligations.FlushFrameResult := by
  intro s k columnStart rest f hr hp hk hf hw hstart hok
  obtain ⟨-, -, hh⟩ := dimsWf_iff.1 hf.1
  have hfits := windowFits_origin_iff (height := f.height) hw
  rw [step_flushFrame hr hp hk (windowDefined_iff.2 ⟨hw, hh⟩)]
  split
  case isTrue hrows =>
    refine ⟨f.readout, FrameStore.readout_length, FrameStore.readout_getElem?, ?_⟩
    rw [flushFrame_ok (s := s.setRequests rest) (hfits.2 hrows) hok, hstart]
    simp only [windowEvents, windowRows_origin, List.append_assoc]
    rfl
  case isFalse hrows =>
    rw [flushFrame_rejected (mt hfits.1 hrows), State.finish_rejected]
    rfl

end Sys2Proof.Machine
end

section
/-! SUPPORT. hard_reset and the initialization (45_session_sequences.md R175, R176): the state after the six reset
events, the nineteen commands in numbers, and the obligations on both operations. -/

namespace Sys2Proof.Machine

/-! ### hard_reset (R175) -/

/-- The six events of a hard reset (D20, D25). -/
def resetEvents : List BusEvent :=
  [.pin .res .low, .delay 1, .pin .res .high, .delay 1, .pin .pwr .high, .delay 1]

/-- `s` after a hard reset with its three delays done. -/
def State.hardResetDone (s : State) : State :=
  { s with
    phase := .reset
    pinRes := .driven .high
    pinPwr := .driven .high
    trace := s.trace ++ resetEvents
    delayReplies := s.delayReplies.drop 3 }

section
variable {s : State}

/-- `s` after a pin request and the delay after it, done. -/
def State.waited (s : State) (p : Pin) (l : Level) : State :=
  ((s.drive p l).logEvent (.delay 1)).setDelayReplies (s.delayReplies.drop 1)

/-- The environment lets the next `delays` delays complete. -/
def State.DelaysDone (s : State) (delays : Nat) : Prop := ∀ r ∈ s.delayReplies.take delays, r = .done

variable {n : Nat} (h : s.DelaysDone (n + 1)) (p : Pin) (l : Level)
include h

theorem State.DelaysDone.waited : (s.waited p l).DelaysDone n := by
  unfold State.DelaysDone at h
  rw [Nat.add_comm, List.take_add] at h
  exact fun r hr => h r (List.mem_append_right _ hr)

theorem drive_delay_ok : (s.drive p l).delay Params.resetStepMs = .ok (s.waited p l) := by
  have hhead : s.delayReplies.headD .done = .done := by
    unfold State.DelaysDone at h
    cases hr : s.delayReplies with
    | nil => rfl
    | cons r more => exact h r (by simp [hr])
  rw [State.delay_eq, State.drive_delayReplies, hhead, ← List.drop_one]
  rfl

end

section
variable {s : State}

theorem hardReset_ok (h : s.DelaysDone 3) : hardReset s = .ok s.hardResetDone := by
  have h1 := h.waited .res .low
  have h2 := h1.waited .res .high
  rw [hardReset, drive_delay_ok h, Run.ok_andThen, drive_delay_ok h1, Run.ok_andThen, drive_delay_ok h2,
    Run.ok_andThen]
  simp only [State.waited, State.drive, State.setPin, State.logEvent, State.setDelayReplies, List.append_assoc,
    List.drop_drop]
  rfl

/-- The `done`-th delay cancelled: the events up to and including it stay on the record. -/
theorem hardReset_cancelled {done : Nat} {more : List DelayReply} (hd : done < 3)
    (h : s.delayReplies = List.replicate done .done ++ .cancelled :: more) :
    (hardReset s).flow = .cancelled ∧ (hardReset s).state.delayReplies = more ∧
      (hardReset s).state.recoveryDue = s.recoveryDue ∧
      (hardReset s).state.trace = s.trace ++ resetEvents.take (2 * done + 2) := by
  interval_cases done <;>
    simp [hardReset, State.delay_eq, h, Run.andThen, DelayReply.flow, resetEvents, List.replicate]

end

/-- Settles O40: the three delays are done, so all six events are made. -/
theorem hardResetResult : Obligations.HardResetResult := by
  intro s rest hr hok
  rw [step_session hr, serveSession, opHardReset, hardReset_ok (s := s.setRequests rest) hok]
  rfl

/-- Settles O52: the sequence stops at the cancelled delay, and no transport write has failed. -/
theorem hardResetCancelled : Obligations.HardResetCancelled := by
  intro s rest done more hr hd hreplies
  obtain ⟨hflow, hdelays, hdue, htrace⟩ := hardReset_cancelled (s := s.setRequests rest) hd hreplies
  have hframe := (legalRun_hardReset (ext := false) (s := s.setRequests rest)).steps.frame
  refine ⟨(hardReset (s.setRequests rest)).state.setPhase .uninitialized, ?_, rfl, hframe.results, hdelays, hdue,
    htrace⟩
  rw [step_session hr, serveSession, opHardReset, State.finish, hflow]
  rfl

/-! ### The initialization (R176) -/

theorem phaseByte_of_wf {phase1 phase2 : Byte} (hw : (Instr.setPhaseLengths phase1 phase2).wf = true) :
    Operands.phaseByte phase1 phase2 = BitVec.ofNat 8 ((phase1.toNat - 1) / 2 + 16 * phase2.toNat) := by
  obtain ⟨⟨h1, h2⟩, -, h4⟩ :
      (5 ≤ phase1.toNat ∧ phase1.toNat ≤ 31) ∧ 3 ≤ phase2.toNat ∧ phase2.toNat ≤ 15 := by
    simpa [Instr.wf, Operands.inRange_iff] using hw
  rw [← Operands.phaseByte_toNat (by omega) (by omega) (by omega), BitVec.ofNat_toNat, BitVec.setWidth_eq]

theorem clockByte_of_wf {fosc divset : Byte} (hw : (Instr.setClockFoscDivset fosc divset).wf = true) :
    Operands.clockByte fosc divset = BitVec.ofNat 8 (16 * fosc.toNat + divset.toNat) := by
  obtain ⟨h1, h2⟩ : fosc.toNat ≤ 15 ∧ divset.toNat ≤ 10 := by
    simpa [Instr.wf, Operands.inRange_iff] using hw
  rw [← Operands.clockByte_toNat (by omega) (by omega), BitVec.ofNat_toNat, BitVec.setWidth_eq]

/-- Steps 1 to 19 in numbers: opcodes GK1, packed parameters GK2 and GK3. -/
theorem initList_busEvents {p : InitParams} {inverted : Bool} (hw : ∀ i ∈ initList p inverted, i.wf = true) :
    (initList p inverted).flatMap Instr.busEvents =
      busCommand 0xFD [0x12] ++ (busCommand 0xAE [] ++ (busCommand 0xA0 [0x14, 0x11] ++ (busCommand 0xA1 [0x00] ++
        (busCommand 0xA2 [0x00] ++ (busCommand (if inverted then 0xA7 else 0xA6) [] ++ (busCommand 0xAB [0x01] ++
        (busCommand 0xB1 [BitVec.ofNat 8 ((p.phase1.toNat - 1) / 2 + 16 * p.phase2.toNat)] ++
        (busCommand 0xB3 [BitVec.ofNat 8 (16 * p.fosc.toNat + p.divset.toNat)] ++
        (busCommand 0xB4 [0xA0, 0xFD] ++ (busCommand 0xB6 [p.precharge2] ++ (busCommand 0xB9 [] ++
        (busCommand 0xBB [p.vprecharge] ++ (busCommand 0xBE [p.vcomh] ++
        (busCommand 0xC1 [p.contrast] ++ (busCommand 0xC7 [p.masterContrast] ++
        (busCommand 0xCA [BitVec.ofNat 8 (p.mux.toNat - 1)] ++ (busCommand 0xA9 [] ++
        busCommand 0xAF []))))))))))))))))) := by
  have hphases := phaseByte_of_wf (hw (.setPhaseLengths p.phase1 p.phase2) (by simp [initList]))
  have hclock := clockByte_of_wf (hw (.setClockFoscDivset p.fosc p.divset) (by simp [initList]))
  have hmux : 16 ≤ p.mux.toNat := (setMuxRatio_wf_iff.1 (hw (.setMuxRatio p.mux) (by simp [initList]))).1
  rw [← hphases, ← hclock, ← muxByte_eq_ofNat_pred (Nat.le_trans (by decide) hmux)]
  simp only [initList, List.flatMap_cons, List.flatMap_nil, List.append_nil, Instr.busEvents]
  cases inverted <;> rfl

theorem initList_writes (p : InitParams) (inverted : Bool) : ((initList p inverted).map Instr.writes).sum = 33 := by
  cases inverted <;>
    simp [initList, Instr.writes, Instr.params, setSleepMode, setDisplayMode, remapPreset]

/-- The initialization with every command in range and every reply Ok. -/
theorem initSequence_ok {s : State} (hd : s.DelaysDone 3) (hok : s.WritesOk 35)
    (hw : ∀ i ∈ initList s.config.init s.inverted, i.wf = true) :
    initSequence s =
      .ok (((s.hardResetDone.sent ((initList s.config.init s.inverted).flatMap Instr.busEvents ++
        (remapPreset s.orientation).busEvents) 35).setPhase .ready).setRecoveryDue false) := by
  have hok' : s.hardResetDone.WritesOk (33 + 2) := hok
  have hsend : sendAll (initList s.hardResetDone.config.init s.hardResetDone.inverted) s.hardResetDone = _ :=
    sendAll_ok (initList_writes _ _) hw (hok'.mono (by decide))
  have hlast := applyOrientation_ok s.orientation
    (hok'.sent ((initList s.config.init s.inverted).flatMap Instr.busEvents))
  rw [← remapPreset_busEvents] at hlast
  rw [initSequence, hardReset_ok hd, Run.ok_andThen, hsend, Run.ok_andThen]
  refine (congrArg (Run.andThen · _) hlast).trans ?_
  rw [Run.ok_andThen, ← State.sent_sent _ _ _ 33 2]
  rfl

/-- The last command leaves DC at the data level. -/
theorem lastLevelFrom_append_remapPreset (l : LastLevel) (evs : List BusEvent) (o : Orientation) :
    lastLevelFrom .dc l (evs ++ (remapPreset o).busEvents) = .driven .high := by
  rw [lastLevelFrom_append, Instr.busEvents, lastLevelFrom_busCommand, if_neg (remapPreset_params_ne_nil o)]

/-- Settles O50: the reset events, the nineteen commands, the remapping command, each of them answered Ok. -/
theorem initializeResult : Obligations.InitializeResult := by
  intro s rest hr hd hok hw
  rw [step_session hr, serveSession, opInitialize, initSequence_ok (s := s.setRequests rest) hd hok hw,
    State.sent, lastLevelFrom_append_remapPreset]
  simp only [State.setRequests_config, State.setRequests_inverted, State.setRequests_orientation,
    initList_busEvents hw, remapPreset_busEvents, List.append_assoc]
  simp only [State.hardResetDone, resetEvents, State.setRequests, List.append_assoc]
  rfl

/-- A command that is not of the extensions is rejected with OutOfRange (R201, R202). -/
theorem codec_of_not_wf_core {i : Instr} (hbase : i.isExtension = false) (hw : i.wf = false) :
    codec i = .err .outOfRange := by
  have hopcode : i.opcode ≠ Params.opcSetGrayScaleTable := fun h => by
    simp [isExtension_of_opcode_setGrayScaleTable h] at hbase
  rw [codec_eq, hw, if_neg Bool.false_ne_true, if_neg hopcode]

/-- The initialization whose list has a first command out of range: exactly the earlier commands are sent. -/
theorem initSequence_rejected {s : State} {earlier later : List Instr} {bad : Instr} (hd : s.DelaysDone 3)
    (hok : s.WritesOk 35) (hlist : initList s.config.init s.inverted = earlier ++ bad :: later)
    (hearlier : ∀ i ∈ earlier, i.wf = true) (hbad : bad.wf = false) :
    initSequence s =
      ⟨s.hardResetDone.sent (earlier.flatMap Instr.busEvents) (earlier.map Instr.writes).sum,
        .err EncodingError.outOfRange.toKind⟩ := by
  have hwrites : (earlier.map Instr.writes).sum ≤ 35 := by
    have hsum := initList_writes s.config.init s.inverted
    rw [hlist, List.map_append, List.sum_append] at hsum
    omega
  obtain ⟨hbase, -⟩ := initList_core s.config.init s.inverted bad (by simp [hlist])
  have hsend := sendAll_rejected (s := s.hardResetDone) (later := later) rfl hearlier
    (codec_of_not_wf_core hbase hbad) (State.WritesOk.mono (n := 35) hok hwrites)
  rw [← hlist] at hsend
  rw [initSequence, hardReset_ok hd, Run.ok_andThen]
  exact congrArg (Run.andThen · _) hsend

/-- A validation error of the codec after something was sent sets the phase Uninitialized (R210). -/
theorem State.finish_rejected_touched {s t : State} (h : s.trace.length < t.trace.length) (e : EncodingError) :
    s.finish ⟨t, .err e.toKind⟩ = (t.setPhase .uninitialized).deliver (.session (.err e.toKind)) := by
  cases e <;> simp [State.finish, State.takeError, EncodingError.toKind, phaseAfterError, h]

/-- Settles O51: the earlier commands are sent, and the first one out of range ends the operation. -/
theorem initializeRejectsBadParameter : Obligations.InitializeRejectsBadParameter := by
  intro s rest earlier later bad sent hr hd hok hlist hearlier hbad hsent
  have htouched : s.trace.length < ((s.setRequests rest).hardResetDone.sent (earlier.flatMap Instr.busEvents)
      (earlier.map Instr.writes).sum).trace.length := by
    simp [State.sent, State.hardResetDone, resetEvents]
  rw [step_session hr, serveSession, opInitialize,
    initSequence_rejected (s := s.setRequests rest) hd hok hlist hearlier hbad,
    State.finish_rejected_touched (s := s.setRequests rest) htouched, hsent]
  rfl

end Sys2Proof.Machine
end

section
/-! SUPPORT. How a session operation ends (45_session_sequences.md R180, R181; 60_exceptions.md R210, R212): the phase
and whether a recovery is due after it, and the obligations on the table of phases and on what is refused. -/

namespace Sys2Proof.Machine

/-! ### Rejections by the session's or the codec's checks -/

/-- The run ended with a validation error. -/
def Run.Rejected (r : Run) : Prop := r.flow = .err .outOfRange ∨ r.flow = .err .badTableLength

section
variable {s : State} {r : Run} {k : State → Run}

theorem Run.ok_not_rejected (s : State) : ¬ (Run.ok s).Rejected := by simp [Run.Rejected, Run.ok]

theorem Run.andThen_not_rejected (h : ¬ r.Rejected) (hk : ∀ s', ¬ (k s').Rejected) : ¬ (r.andThen k).Rejected := by
  by_cases hf : r.flow = .ok
  · rw [Run.andThen_of_ok hf]; exact hk _
  · rw [Run.andThen_of_not_ok hf]; exact h

theorem tx_not_rejected (s : State) (bytes : List Byte) : ¬ (s.tx bytes).Rejected := by
  rw [Run.Rejected, State.tx_eq]
  cases s.txReplies.headD .ok <;> simp [TxReply.flow]

theorem delay_not_rejected (s : State) (n : Nat) : ¬ (s.delay n).Rejected := by
  rw [Run.Rejected, State.delay_eq]
  cases s.delayReplies.headD .done <;> simp [DelayReply.flow]

theorem hardReset_not_rejected (s : State) : ¬ (hardReset s).Rejected :=
  Run.andThen_not_rejected (delay_not_rejected _ _) fun _ =>
    Run.andThen_not_rejected (delay_not_rejected _ _) fun _ =>
      Run.andThen_not_rejected (delay_not_rejected _ _) fun _ => Run.ok_not_rejected _

/-! ### Transmissions: the phase is kept, and a check rejects only before the first event -/

/-- A sequence of framed commands and data that no check rejects: it keeps the phase. -/
structure ValidTransmission (s : State) (r : Run) : Prop where
  phase : r.state.phase = s.phase
  accepted : ¬ r.Rejected

/-- A sequence of framed commands and data: it keeps the phase, and a check rejects it only before its first event. -/
structure Transmission (s : State) (r : Run) : Prop where
  phase : r.state.phase = s.phase
  untouched : r.Rejected → r.state = s

theorem ValidTransmission.andThen (h : ValidTransmission s r) (hk : ∀ s', ValidTransmission s' (k s')) :
    ValidTransmission s (r.andThen k) := by
  refine ⟨?_, Run.andThen_not_rejected h.accepted fun s' => (hk s').accepted⟩
  by_cases hf : r.flow = .ok
  · rw [Run.andThen_of_ok hf]; exact (hk _).phase.trans h.phase
  · rw [Run.andThen_of_not_ok hf]; exact h.phase

theorem ValidTransmission.transmission (h : ValidTransmission s r) : Transmission s r :=
  ⟨h.phase, fun hr => absurd hr h.accepted⟩

/-- Once something was sent, only valid commands and data may follow. -/
theorem Transmission.andThen (h : Transmission s r) (hk : ∀ s', ValidTransmission s' (k s')) :
    Transmission s (r.andThen k) := by
  by_cases hf : r.flow = .ok
  · rw [Run.andThen_of_ok hf]
    exact ⟨(hk _).phase.trans h.phase, fun hr => absurd hr (hk _).accepted⟩
  · rw [Run.andThen_of_not_ok hf]; exact h

theorem transmission_rejected (e : ErrorKind) : Transmission s ⟨s, .err e⟩ := ⟨rfl, fun _ => rfl⟩

theorem validTransmission_tx (p : Pin) (l : Level) (bytes : List Byte) :
    ValidTransmission s ((s.drive p l).tx bytes) :=
  ⟨by rw [State.tx_eq]; simp, tx_not_rejected _ _⟩

theorem validTransmission_send {i : Instr} (hw : i.wf = true) : ValidTransmission s (send i s) := by
  rw [send_of_wf hw]
  refine (validTransmission_tx _ _ _).andThen fun s' => ?_
  split
  · exact ⟨rfl, Run.ok_not_rejected s'⟩
  · exact validTransmission_tx _ _ _

theorem transmission_send (i : Instr) : Transmission s (send i s) := by
  cases hw : i.wf with
  | true => exact (validTransmission_send hw).transmission
  | false =>
    obtain ⟨e, he⟩ := codec_of_not_wf hw
    rw [send_of_codec_err he]
    exact transmission_rejected _

theorem validTransmission_flushBuffer (bytes : List Byte) : ValidTransmission s (flushBuffer bytes s) :=
  (validTransmission_send (i := .writeRam) rfl).andThen fun _ => validTransmission_tx _ _ _

theorem validTransmission_applyOrientation (o : Orientation) : ValidTransmission s (applyOrientation o s) :=
  have h := validTransmission_send (s := s.setOrientation o) (remapPreset_wf o)
  ⟨h.phase, h.accepted⟩

theorem transmission_addressWindow (x y w h : Nat) : Transmission s (addressWindow x y w h s) := by
  unfold addressWindow
  split
  case isTrue hfits =>
    exact ((validTransmission_send (windowColumns_wf hfits)).andThen fun _ =>
      validTransmission_send (windowRows_wf hfits)).transmission
  case isFalse => exact transmission_rejected _

theorem transmission_flushFrame (f : FrameStore) : Transmission s (flushFrame f s) :=
  (transmission_addressWindow _ _ _ _).andThen fun _ => validTransmission_flushBuffer _

/-! ### The phase after success, and the events before a rejection, of hard_reset and the initialization -/

theorem phase_of_andThen_ok {p : Phase} (hk : ∀ s', (k s').flow = .ok → (k s').state.phase = p)
    (h : (r.andThen k).flow = .ok) : (r.andThen k).state.phase = p := by
  by_cases hf : r.flow = .ok
  · rw [Run.andThen_of_ok hf] at h ⊢; exact hk _ h
  · rw [Run.andThen_of_not_ok hf] at h; exact absurd h hf

theorem hardReset_phase (h : (hardReset s).flow = .ok) : (hardReset s).state.phase = .reset :=
  phase_of_andThen_ok (fun _ => phase_of_andThen_ok fun _ => phase_of_andThen_ok fun _ _ => rfl) h

theorem initSequence_phase (h : (initSequence s).flow = .ok) : (initSequence s).state.phase = .ready :=
  phase_of_andThen_ok (fun _ => phase_of_andThen_ok fun _ => phase_of_andThen_ok fun _ _ => rfl) h

/-- What follows a first step only adds to its events. -/
theorem trace_le_andThen {ext : Bool} (hk : ∀ s', LegalRun ext s' (k s')) :
    r.state.trace.length ≤ (r.andThen k).state.trace.length := by
  by_cases hf : r.flow = .ok
  · obtain ⟨evs, he⟩ := (hk r.state).steps.frame.trace
    rw [Run.andThen_of_ok hf, he, List.length_append]
    exact Nat.le_add_right _ _
  · rw [Run.andThen_of_not_ok hf]

/-- Whatever ends an initialization, its hard reset was on the bus before (R176). -/
theorem initSequence_touched (s : State) : s.trace.length < (initSequence s).state.trace.length := by
  have hfirst : s.trace.length < ((s.drive .res resAssertLevel).delay Params.resetStepMs).state.trace.length := by
    simp [State.delay_eq]
  have hreset : _ ≤ (hardReset s).state.trace.length := trace_le_andThen (ext := false) fun _ =>
    (legalRun_drive_delay _ (by decide) _ _).andThen fun _ =>
      (legalRun_drive_delay _ (by decide) _ _).andThen fun s3 => legalRun_ok (.single (.phase s3 _))
  have hrest : _ ≤ (initSequence s).state.trace.length := trace_le_andThen (ext := false) fun _ =>
    (legalRun_sendAll (initList_core _ _)).andThen fun _ =>
      (legalRun_applyOrientation _).andThen fun s3 =>
        legalRun_ok ((Relation.ReflTransGen.single (.phase s3 _)).tail (.recovered _))
  exact hfirst.trans_le (hreset.trans hrest)

/-! ### How every session operation ends (R180) -/

/-- How the sequence of `op`, begun in `s`, may end: the phase and the recovery due by how it ended, and whether a
validation error found the bus touched. -/
structure SessionEnd (op : SessionOp) (s : State) (r : Run) : Prop where
  results : r.state.results = s.results
  noPinFailure : r.flow ≠ .err .pinFailure
  ok : r.flow = .ok → r.state.phase = op.successPhase s.phase ∧
    r.state.recoveryDue = if op = .initializeSession then false else s.recoveryDue
  failed : ∀ e, r.flow = .err (.communicationFailure e) → r.state.recoveryDue = true
  rejected : r.Rejected → r.state.recoveryDue = s.recoveryDue ∧
    if op = .initializeSession then s.trace.length < r.state.trace.length else r.state = s
  cancelled : r.flow = .cancelled → r.state.recoveryDue = true ∨ r.state.recoveryDue = s.recoveryDue

variable {op : SessionOp} {ext : Bool}

theorem Transmission.sessionEnd (h : Transmission s r) (hl : LegalRun ext s r) (hn : RecoveryNoted s r)
    (hop : op ≠ .initializeSession) (hphase : op.successPhase s.phase = s.phase) : SessionEnd op s r where
  results := hl.steps.frame.results
  noPinFailure := hl.noPinFailure
  ok hf := ⟨h.phase.trans hphase.symm, by rw [if_neg hop]; exact hn.ok hf⟩
  failed := hn.failed
  rejected hr := ⟨hn.rejected hr, by rw [if_neg hop]; exact h.untouched hr⟩
  cancelled := hn.cancelled

theorem hardReset_sessionEnd (s : State) : SessionEnd .hardReset s (hardReset s) where
  results := (legalRun_hardReset (ext := false)).steps.frame.results
  noPinFailure := (legalRun_hardReset (ext := false)).noPinFailure
  ok hf := ⟨hardReset_phase hf, recoveryNoted_hardReset.ok hf⟩
  failed := recoveryNoted_hardReset.failed
  rejected hr := absurd hr (hardReset_not_rejected s)
  cancelled := recoveryNoted_hardReset.cancelled

theorem initSequence_sessionEnd (s : State) : SessionEnd .initializeSession s (initSequence s) := by
  have hl := legalRun_initSequence (ext := false) (s := s)
  rcases initSequence_recovery s with ⟨hflow, hdue⟩ | ⟨hflow, hn⟩
  · exact ⟨hl.steps.frame.results, hl.noPinFailure, fun hf => ⟨initSequence_phase hf, hdue⟩,
      fun e hf => by simp [hflow] at hf, fun hr => by simp [Run.Rejected, hflow] at hr, fun hf => by simp [hflow] at hf⟩
  · exact ⟨hl.steps.frame.results, hl.noPinFailure, fun hf => absurd hf hflow, hn.failed,
      fun hr => ⟨hn.rejected hr, initSequence_touched s⟩, hn.cancelled⟩

/-- A session transaction that answers a next state ran a sequence that ends so, and finished it. -/
theorem serveSession_sessionEnd {t : State} (h : serveSession op s = .next t) :
    ∃ r, SessionEnd op s r ∧ t = s.finish r := by
  cases op with
  | send i =>
    obtain ⟨hne, rfl⟩ := sendDirect_next (opSend_next h)
    exact ⟨_, (transmission_send i).sessionEnd (legalRun_send (ext := true) rfl hne) (recoveryNoted_send i) nofun rfl,
      rfl⟩
  | writeData bytes =>
    obtain ⟨-, h⟩ := State.inReady_next h
    cases h
    exact ⟨_, (validTransmission_tx _ _ _).transmission.sessionEnd (legalRun_writeData (ext := false) bytes)
      (recoveryNoted_tx _ _ _) nofun rfl, rfl⟩
  | flushBuffer bytes =>
    obtain ⟨-, h⟩ := State.inReady_next h
    cases h
    exact ⟨_, (validTransmission_flushBuffer bytes).transmission.sessionEnd (legalRun_flushBuffer (ext := false) bytes)
      (recoveryNoted_flushBuffer bytes) nofun rfl, rfl⟩
  | hardReset => cases h; exact ⟨_, hardReset_sessionEnd s, rfl⟩
  | initializeSession => cases h; exact ⟨_, initSequence_sessionEnd s, rfl⟩
  | setOrientation o =>
    obtain ⟨-, h⟩ := State.inReady_next h
    cases h
    exact ⟨_, (validTransmission_applyOrientation o).transmission.sessionEnd
      (legalRun_applyOrientation (ext := false) o) (recoveryNoted_applyOrientation o) nofun rfl, rfl⟩
  | setAddressWindow x y w h' =>
    obtain ⟨-, h⟩ := State.inReady_next h
    split at h
    · cases h
      exact ⟨_, (transmission_addressWindow x y w h').sessionEnd (legalRun_addressWindow (ext := false) x y w h')
        (recoveryNoted_addressWindow x y w h') nofun rfl, rfl⟩
    · cases h
  | flushFrame k =>
    obtain ⟨-, h⟩ := State.inReady_next h
    obtain ⟨f, -, h⟩ := State.onStore_next s h
    split at h
    · cases h
      exact ⟨_, (transmission_flushFrame f).sessionEnd (legalRun_flushFrame (ext := false) f)
        (recoveryNoted_flushFrame f) nofun rfl, rfl⟩
    · cases h

/-- The phase a validation error leaves (R210). -/
theorem SessionEnd.phaseAfterError_rejected (h : SessionEnd op s r) (hr : r.Rejected) {e : ErrorKind}
    (he : e = .outOfRange ∨ e = .badTableLength) :
    phaseAfterError e (decide (s.trace.length < r.state.trace.length)) r.state.phase =
      if op = .initializeSession then .uninitialized else s.phase := by
  have hphase : ∀ b p, phaseAfterError e b p = if b then .uninitialized else p := by
    rcases he with rfl | rfl <;> exact fun _ _ => rfl
  obtain ⟨-, hbus⟩ := h.rejected hr
  rw [hphase]
  split at hbus
  case isTrue hop => simp [hop, hbus]
  case isFalse hop => simp [hop, hbus]

end

/-- Settles O53, by how the sequence of the operation ended. -/
theorem sessionPhaseTable : Obligations.SessionPhaseTable := by
  intro s t op rest hr h
  rw [step_session hr] at h
  obtain ⟨r, hend, rfl⟩ := serveSession_sessionEnd h
  rcases (s.setRequests rest).finish_cases r with ⟨hf, ht⟩ | ⟨e, hf, ht⟩ | ⟨hf, ht⟩ <;> rw [ht]
  · obtain ⟨hphase, hdue⟩ := hend.ok hf
    exact .inl ⟨congrArg (· ++ _) hend.results, hphase, hdue⟩
  · have hresults := congrArg (· ++ [Result.session (.err e)]) hend.results
    by_cases he : e = .outOfRange ∨ e = .badTableLength
    · have hrej : r.Rejected := by rcases he with rfl | rfl; exacts [.inl hf, .inr hf]
      obtain ⟨hdue, -⟩ := hend.rejected hrej
      exact .inr (.inr (.inl ⟨e, he, hresults, hend.phaseAfterError_rejected hrej he, hdue⟩))
    · cases e with
      | outOfRange => exact absurd (.inl rfl) he
      | badTableLength => exact absurd (.inr rfl) he
      | communicationFailure e => exact .inr (.inl ⟨e, hresults, rfl, hend.failed e hf⟩)
      | pinFailure => exact absurd hf hend.noPinFailure
  · exact .inr (.inr (.inr ⟨hend.results, rfl, hend.cancelled hf⟩))

/-! ### Refusals -/

/-- The operations that have a meaning only in phase Ready (R180, D22). -/
def SessionOp.NeedsReady (op : SessionOp) : Prop :=
  (∃ bs, op = .writeData bs) ∨ (∃ bs, op = .flushBuffer bs) ∨ (∃ o, op = .setOrientation o) ∨
    (∃ x y w h, op = .setAddressWindow x y w h) ∨ ∃ k, op = .flushFrame k

section
variable {s : State}

theorem State.inReady_not_ready (h : s.phase ≠ .ready) (o : Host.Outcome State Fault Refusal) :
    s.inReady o = .refused .wrongPhase := by
  unfold State.inReady
  cases hp : s.phase with
  | ready => exact absurd hp h
  | reset => rfl
  | uninitialized => rfl

theorem serveSession_not_ready {op : SessionOp} (hop : op.NeedsReady) (h : s.phase ≠ .ready) :
    serveSession op s = .refused .wrongPhase := by
  rcases hop with ⟨bs, rfl⟩ | ⟨bs, rfl⟩ | ⟨o, rfl⟩ | ⟨x, y, w, h', rfl⟩ | ⟨k, rfl⟩ <;>
    exact State.inReady_not_ready h _

theorem opSend_not_admitted {i : Instr} (ha : i.admitted s.config.extCommands = false) :
    opSend i s = .refused .extensionNotAdmitted := by
  rw [opSend, ha]
  rfl

theorem opSend_uninitialized {i : Instr} (ha : i.admitted s.config.extCommands = true)
    (hp : s.phase = .uninitialized) : opSend i s = .refused .wrongPhase := by
  rw [opSend, if_pos ha, hp]

theorem opSend_recoveryDue {i : Instr} (ha : i.admitted s.config.extCommands = true) (hp : s.phase = .reset)
    (hd : s.recoveryDue = true) : opSend i s = .refused .recoveryDue := by
  rw [opSend, if_pos ha, hp]
  exact if_pos hd

/-- With a recovery due every direct send is refused, whatever the reason (U3). -/
theorem opSend_refused (i : Instr) (hp : s.phase ≠ .ready) (hd : s.recoveryDue = true) :
    ∃ r, opSend i s = .refused r := by
  cases ha : i.admitted s.config.extCommands with
  | false => exact ⟨_, opSend_not_admitted ha⟩
  | true =>
    cases hphase : s.phase with
    | ready => exact absurd hphase hp
    | reset => exact ⟨_, opSend_recoveryDue ha hphase hd⟩
    | uninitialized => exact ⟨_, opSend_uninitialized ha hphase⟩

/-- With a recovery due only hard_reset and the initialization have a meaning (U3, R240). -/
theorem serveSession_recoveryDue {op : SessionOp} (hp : s.phase ≠ .ready) (hd : s.recoveryDue = true)
    (hreset : op ≠ .hardReset) (hinit : op ≠ .initializeSession) : ∃ r, serveSession op s = .refused r := by
  by_cases hop : op.NeedsReady
  · exact ⟨_, serveSession_not_ready hop hp⟩
  · cases op with
    | send i => exact opSend_refused i hp hd
    | hardReset => exact absurd rfl hreset
    | initializeSession => exact absurd rfl hinit
    | _ => exact absurd (by simp [SessionOp.NeedsReady]) hop

theorem State.onStore_none {k : Nat} (hk : s.stores[k]? = none) (g : FrameStore → Host.Outcome State Fault Refusal) :
    s.onStore k g = .refused .noSuchFrameStore := by
  rw [State.onStore, hk]

theorem windowDefined_eq_false {w h : Nat} (hw : 480 < w ∨ h = 0) : ¬ windowDefined w h = true := by
  rw [windowDefined_iff]
  omega

end

/-- Settles O54, clause by clause: the phase, the intent, the window, the store, the recovery due, ReadRam. -/
theorem refusedOperations : Obligations.RefusedOperations := by
  intro s rest
  refine ⟨fun i hr ha hp => ?_, fun i hr ha => ?_, fun op hr hop hp => ?_, fun x y w h hr hp hw => ?_,
    fun k f hr hp hk hw => ?_, fun k hr hp hk => ?_, fun k op hr hk hop => ?_, fun i hr ha hp hd => ?_,
    fun op hr hready hd hreset hinit => ?_, fun hr hp => ?_⟩
  · exact (step_session hr).trans (opSend_uninitialized (s := s.setRequests rest) ha hp)
  · exact (step_session hr).trans (opSend_not_admitted (s := s.setRequests rest) ha)
  · exact (step_session hr).trans (serveSession_not_ready (s := s.setRequests rest) hop hp)
  · rw [step_session hr, serveSession, opSetAddressWindow, State.inReady_ready (s := s.setRequests rest) hp,
      if_neg (windowDefined_eq_false hw)]
  · rw [step_session hr, serveSession, opFlushFrame, State.inReady_ready (s := s.setRequests rest) hp,
      State.onStore_some (s.setRequests rest) hk, if_neg (windowDefined_eq_false hw)]
  · rw [step_session hr, serveSession, opFlushFrame, State.inReady_ready (s := s.setRequests rest) hp,
      State.onStore_none (s := s.setRequests rest) hk]
  · rw [step_serves hr]
    rcases hop with ⟨x, y, c, rfl⟩ | ⟨c, rfl⟩ | ⟨x, y, rfl⟩ | rfl | rfl <;>
      exact State.onStore_none (s := s.setRequests rest) hk _
  · exact (step_session hr).trans (opSend_recoveryDue (s := s.setRequests rest) ha hp hd)
  · have hp : s.phase ≠ .ready := fun hp => Bool.false_ne_true ((hready hp).symm.trans hd)
    rw [step_session hr]
    exact serveSession_recoveryDue (s := s.setRequests rest) hp hd hreset hinit
  · exact (step_send hr hp (admitted_of_core rfl)).trans (sendDirect_readRam _)

end Sys2Proof.Machine
end

section
/-! SUPPORT. The results delivered (60_exceptions.md R200 to R204): what the codec, a Frame Store and the end of a
session operation deliver lies within the taxonomy, and the obligation that every step keeps it so. -/

namespace Sys2Proof.Machine

/-! ### What the codec answers -/

/-- Every format has at most 2 parameter bytes, but for the gray-scale table's 15 (R80, R86). -/
theorem row_paramCount : ∀ r ∈ rows, r.paramCount ≤ 2 ∨ (r.extension = true ∧ r.paramCount = 15) := by decide

/-- What the codec emits is the wire image of an intent in range (R81, R83). -/
theorem codec_ok {i : Instr} {c : EncodedCommand} (h : codec i = .ok c) :
    i.wf = true ∧ c = ⟨i.opcode, i.params⟩ := by
  rw [codec_eq] at h
  split at h
  · next hw => exact ⟨hw, by cases h; rfl⟩
  · cases h

section
variable {ext : Bool} {i : Instr}

/-- The parameter count is the one of the row of the intent's opcode, an extension's only where it is admitted. -/
theorem codec_params_length {c : EncodedCommand} (ha : i.admitted ext = true) (h : codec i = .ok c) :
    c.params.length ≤ 2 ∨ (ext = true ∧ c.params.length = 15) := by
  obtain ⟨hw, rfl⟩ := codec_ok h
  obtain ⟨r, hr, hext, hcount, -⟩ := wireImage_statement i hw
  obtain ⟨hmem, -, -⟩ := rowOf_some hr
  have hformat := row_paramCount r hmem
  rw [hcount] at hformat
  exact hformat.imp_right fun ⟨he, hlen⟩ => ⟨by simpa [Instr.admitted, ← hext, he] using ha, hlen⟩

/-- The codec's answer to an admitted intent lies within the taxonomy. -/
theorem codec_legal (ha : i.admitted ext = true) : (Result.codec (codec i)).Legal ext := by
  cases h : codec i with
  | ok c => exact ⟨codec_isOpcode ha h, codec_params_length ha h⟩
  | err e =>
    cases e with
    | outOfRange => trivial
    | badTableLength => exact codec_badTableLength ha h

end

/-! ### Delivering a result, and ending a session operation -/

section
variable {s t : State}

theorem State.ResultsLegal.deliver {r : Result} (hs : s.ResultsLegal) (hr : r.Legal s.config.extCommands) :
    (s.deliver r).ResultsLegal := fun q hq =>
  (List.mem_append.1 hq).elim (hs q) fun hq => List.mem_singleton.1 hq ▸ hr

theorem State.ResultsLegal.of_eq (hs : s.ResultsLegal) (hc : t.config = s.config) (hr : t.results = s.results) :
    t.ResultsLegal := by
  unfold State.ResultsLegal
  rw [hc, hr]
  exact hs

/-- A Frame Store has no error: what it delivers is a value (R204). -/
theorem serveFrameStore_resultsLegal {op : FrameStoreOp} (hs : s.ResultsLegal) (h : serveFrameStore op s = .next t) :
    t.ResultsLegal := by
  rcases serveFrameStore_next s h with ⟨k, f, f', -, -, -, -, rfl, -⟩ | ⟨w, h', -, -, rfl⟩ |
    ⟨v, k, x, y, -, rfl⟩ | ⟨k, w, h', -, rfl⟩ | ⟨k, bs, -, rfl⟩ | ⟨k, x, y, c, -, rfl⟩
  · exact hs
  · exact State.ResultsLegal.deliver (s := s.addStore _) hs trivial
  · exact hs.deliver trivial
  · exact hs.deliver trivial
  · exact hs.deliver trivial
  · exact hs

/-- The error a legal sequence ends with lies within the taxonomy (R202, R204). -/
theorem LegalRun.err_legal {ext : Bool} {r : Run} {e : ErrorKind} (h : LegalRun ext s r) (hf : r.flow = .err e) :
    (Result.session (.err e)).Legal ext := by
  cases e with
  | outOfRange => trivial
  | badTableLength => exact h.badTable hf
  | communicationFailure _ => trivial
  | pinFailure => exact absurd hf h.noPinFailure

/-- Ending a legal sequence, which itself delivers nothing, delivers Ok, a legal error, or nothing. -/
theorem LegalRun.finish_resultsLegal {r : Run} (h : LegalRun s.config.extCommands s r) (hs : s.ResultsLegal) :
    (s.finish r).ResultsLegal := by
  have hframe := h.steps.frame
  have hr : r.state.ResultsLegal := hs.of_eq hframe.config hframe.results
  rcases s.finish_cases r with ⟨-, ht⟩ | ⟨e, hf, ht⟩ | ⟨-, ht⟩ <;> rw [ht]
  · exact hr.deliver trivial
  · refine State.ResultsLegal.deliver (s := r.state.setPhase _) hr ?_
    rw [State.setPhase_config, hframe.config]
    exact h.err_legal hf
  · exact hr

end

/-- Settles O58, by the port of the transaction: the codec's answer to an admitted intent, a value of a Frame Store, or
the end of a legal sequence. -/
theorem stepKeepsResultsLegal : Obligations.StepKeepsResultsLegal := by
  intro s t hs h
  rcases step_next h with ⟨-, rfl⟩ | ⟨rest, ⟨i, -, ha, rfl⟩ | ⟨op, -, h⟩ | ⟨op, r, -, -, hl, rfl⟩⟩
  · exact hs
  · exact State.ResultsLegal.deliver (s := s.setRequests rest) hs (codec_legal ha)
  · exact serveFrameStore_resultsLegal (s := s.setRequests rest) hs h
  · exact LegalRun.finish_resultsLegal (s := s.setRequests rest) hl hs

end Sys2Proof.Machine
end

section
/-! SUPPORT. The bus over a step (70_reset_and_hazards.md R236; 00_scope.md R13; 10_state.md R34): what each elementary
effect of a session sequence records and where it leaves the pin fields, and the obligation on the bus, the pins and a
recovery due. -/

namespace Sys2Proof.Machine

/-! ### Disciplined records -/

section
variable {tr evs : List BusEvent}

/-- A write of `tr ++ evs` stands in `tr`, or in `evs` and there not first, so that the event before it does too. -/
theorem BusDisciplined.append (h : BusDisciplined tr) (he : BusDisciplined evs) : BusDisciplined (tr ++ evs) := by
  intro before dc bytes after heq
  rcases List.append_eq_append_iff.1 heq with ⟨mid, rfl, hevs⟩ | ⟨mid, htr, hrest⟩
  · obtain ⟨before', l, rfl, hdc⟩ := he mid dc bytes after hevs
    exact ⟨tr ++ before', l, (List.append_assoc _ _ _).symm, hdc⟩
  · cases mid with
    | nil =>
      obtain ⟨before', l, hnil, -⟩ := he [] dc bytes after hrest.symm
      simp at hnil
    | cons e mid =>
      obtain ⟨rfl, -⟩ := List.cons.inj hrest
      exact h before _ bytes mid htr

theorem busDisciplined_of_no_write (h : ∀ dc bytes, .tx dc bytes ∉ evs) : BusDisciplined evs := by
  rintro before dc bytes after rfl
  exact absurd (by simp) (h dc bytes)

/-- The framing of one write: the DC request, then the write tagged with its level (R171, D18). -/
theorem busDisciplined_framed (l : Level) (bytes : List Byte) :
    BusDisciplined [.pin .dc l, .tx (.driven l) bytes] := by
  intro before dc bytes' after heq
  cases before with
  | nil => simp at heq
  | cons e before =>
    obtain ⟨rfl, hrest⟩ := List.cons.inj heq
    cases before with
    | nil =>
      obtain ⟨hwrite, -⟩ := List.cons.inj hrest
      cases hwrite
      exact ⟨[], l, rfl, rfl⟩
    | cons e' before => simp at hrest

end

/-! ### The pin fields -/

section
variable (s : State) (p : Pin)

@[simp] theorem State.tx_pin (bytes : List Byte) : (s.tx bytes).state.pin p = s.pin p := by
  rw [State.tx_eq]
  rfl

@[simp] theorem State.delay_pin (n : Nat) : (s.delay n).state.pin p = s.pin p := by
  rw [State.delay_eq]
  rfl

theorem State.finish_pin (r : Run) : (s.finish r).pin p = r.state.pin p := by
  rcases s.finish_cases r with ⟨-, h⟩ | ⟨e, -, h⟩ | ⟨-, h⟩ <;> rw [h] <;> rfl

end

/-! ### What is recorded of the way from one state to another -/

/-- From `s` to `t` a disciplined record is added to the trace, and each pin field follows the levels it requests. -/
def BusRecorded (s t : State) : Prop :=
  ∃ evs, t.trace = s.trace ++ evs ∧ BusDisciplined evs ∧ ∀ p, t.pin p = lastLevelFrom p (s.pin p) evs

section
variable {ext : Bool} {s t u : State}

theorem BusRecorded.of_unchanged (htrace : t.trace = s.trace) (hpin : ∀ p, t.pin p = s.pin p) : BusRecorded s t :=
  ⟨[], by simp [htrace], busDisciplined_nil, hpin⟩

theorem BusRecorded.trans (h : BusRecorded s t) (h' : BusRecorded t u) : BusRecorded s u := by
  obtain ⟨evs, htrace, hevs, hpin⟩ := h
  obtain ⟨evs', htrace', hevs', hpin'⟩ := h'
  exact ⟨evs ++ evs', by rw [htrace', htrace, List.append_assoc], hevs.append hevs',
    fun p => by rw [hpin', hpin, lastLevelFrom_append]⟩

theorem BusRecorded.busDisciplined (h : BusRecorded s t) (hs : BusDisciplined s.trace) : BusDisciplined t.trace := by
  obtain ⟨evs, htrace, hevs, -⟩ := h
  rw [htrace]
  exact hs.append hevs

theorem BusRecorded.pinsAgree (h : BusRecorded s t) (hs : s.PinsAgree) : t.PinsAgree := by
  obtain ⟨evs, htrace, -, hpin⟩ := h
  intro p
  rw [hpin, hs p, htrace, lastLevelFrom_append]

theorem busRecorded_drive (p : Pin) (l : Level) : BusRecorded s (s.drive p l) :=
  ⟨_, State.drive_trace s p l, busDisciplined_of_no_write (by simp),
    fun q => by simp [State.pin_drive, lastLevelFrom, eq_comm]⟩

theorem busRecorded_delay (n : Nat) : BusRecorded s (s.delay n).state :=
  ⟨[.delay n], by simp [State.delay_eq], busDisciplined_of_no_write (by simp),
    fun p => by simp [lastLevelFrom]⟩

/-- A write is requested right after DC is driven, so it is tagged with that level (R13). -/
theorem busRecorded_framed (l : Level) (bytes : List Byte) : BusRecorded s ((s.drive .dc l).tx bytes).state :=
  ⟨[.pin .dc l, .tx (.driven l) bytes], by simp [State.tx_eq], busDisciplined_framed l bytes,
    fun p => by simp [State.pin_drive, lastLevelFrom, eq_comm]⟩

theorem BusStep.busRecorded (h : BusStep ext s t) : BusRecorded s t := by
  cases h with
  | phase p => exact .of_unchanged rfl fun _ => rfl
  | recovered => exact .of_unchanged rfl fun _ => rfl
  | orientation o => exact .of_unchanged rfl fun _ => rfl
  | pin p l hp => exact busRecorded_drive p l
  | delay n => exact busRecorded_delay n
  | command op h => exact busRecorded_framed .low [op]
  | data bytes => exact busRecorded_framed .high bytes

theorem BusSteps.busRecorded (h : BusSteps ext s t) : BusRecorded s t := by
  induction h with
  | refl => exact .of_unchanged rfl fun _ => rfl
  | tail _ hstep ih => exact ih.trans hstep.busRecorded

theorem LegalRun.finish_busRecorded {r : Run} (h : LegalRun ext s r) : BusRecorded s (s.finish r) :=
  h.steps.busRecorded.trans (.of_unchanged (s.finish_trace r) fun p => s.finish_pin p r)

/-- Only a session sequence touches the bus and the pins (R182). -/
theorem step_busRecorded (h : step s = .next t) : BusRecorded s t := by
  rcases step_next h with ⟨-, rfl⟩ | ⟨rest, ⟨i, -, -, rfl⟩ | ⟨op, -, h⟩ | ⟨op, r, -, -, hl, rfl⟩⟩
  · exact .of_unchanged rfl fun _ => rfl
  · exact .of_unchanged rfl fun _ => rfl
  · obtain ⟨fs, rs, rfl, -⟩ := serveFrameStore_eq h
    exact .of_unchanged rfl fun _ => rfl
  · exact BusRecorded.trans (.of_unchanged rfl fun _ => rfl) hl.finish_busRecorded

/-! ### Ready only with no recovery due (U3) -/

/-- Only `initialize` brings a session to Ready that was not there (R180). -/
theorem SessionOp.ready_of_successPhase {op : SessionOp} {p : Phase} (hop : op ≠ .initializeSession)
    (h : op.successPhase p = .ready) : p = .ready := by
  cases op with
  | hardReset => cases h
  | initializeSession => exact absurd rfl hop
  | _ => exact h

/-- By the table of R180: a session operation ends in Ready by a successful `initialize`, which ends the recovery, or it
began in Ready and leaves what is due as it was. -/
theorem step_session_readyRecovered {op : SessionOp} {rest : List Request} (hr : s.requests = .session op :: rest)
    (h : step s = .next t) (hs : s.ReadyRecovered) : t.ReadyRecovered := by
  intro hready
  rcases sessionPhaseTable s t op rest hr h with ⟨-, hphase, hdue⟩ | ⟨e, -, hphase, -⟩ | ⟨e, -, -, hphase, hdue⟩ |
    ⟨-, hphase, -⟩
  · rw [hdue]
    split
    case isTrue => rfl
    case isFalse hop => exact hs (SessionOp.ready_of_successPhase hop (hphase.symm.trans hready))
  · simp [hphase] at hready
  · rw [hphase] at hready
    split at hready
    case isTrue => cases hready
    case isFalse => exact hdue.trans (hs hready)
  · simp [hphase] at hready

theorem step_readyRecovered (h : step s = .next t) (hs : s.ReadyRecovered) : t.ReadyRecovered := by
  rcases step_next h with ⟨-, rfl⟩ | ⟨rest, ⟨i, -, -, rfl⟩ | ⟨op, -, hserve⟩ | ⟨op, r, hr, -, -, -⟩⟩
  · exact hs
  · exact hs
  · obtain ⟨fs, rs, rfl, -⟩ := serveFrameStore_eq hserve
    exact hs
  · exact step_session_readyRecovered hr h hs

end

/-- Settles O56: a step adds a disciplined record whose levels the pin fields follow, and the table of R180 gives the
phase and the recovery due after it. -/
theorem stepKeepsBusDiscipline : Obligations.StepKeepsBusDiscipline := by
  intro s t h
  have hbus := step_busRecorded h
  exact ⟨hbus.busDisciplined, hbus.pinsAgree, step_readyRecovered h⟩

end Sys2Proof.Machine
end

section
/-! SUPPORT. The bytes of SetRemapping in numbers (30_encoding.md R89): p0 is the sum of its fields, p1 of its constant
and the dual bit. -/

namespace Sys2Proof.Operands

/-- A field placed above every set bit of a byte: OR is addition. -/
theorem or_shiftLeft_toNat {n : Nat} {lo field : Byte} (hlo : lo.toNat < 2 ^ n) (hfit : field.toNat * 2 ^ n < 2 ^ 8) :
    (lo ||| (field <<< n)).toNat = lo.toNat + 2 ^ n * field.toNat := by
  have hshift : (field <<< n).toNat = field.toNat <<< n := by
    rw [BitVec.toNat_shiftLeft, Nat.mod_eq_of_lt (by rwa [Nat.shiftLeft_eq])]
  rw [BitVec.toNat_or, hshift, Nat.or_comm, ← Nat.shiftLeft_add_eq_or_of_lt hlo, Nat.shiftLeft_eq, Nat.mul_comm,
    Nat.add_comm]

/-- Five one-bit fields at bits 0, 1, 2, 4 and 5, one after the other from the lowest. -/
theorem orFields_toNat {b0 b1 b2 b4 b5 : Byte} (h0 : b0.toNat ≤ 1) (h1 : b1.toNat ≤ 1) (h2 : b2.toNat ≤ 1)
    (h4 : b4.toNat ≤ 1) (h5 : b5.toNat ≤ 1) :
    (b0 ||| (b1 <<< 1) ||| (b2 <<< 2) ||| (b4 <<< 4) ||| (b5 <<< 5)).toNat =
      b0.toNat + 2 * b1.toNat + 4 * b2.toNat + 16 * b4.toNat + 32 * b5.toNat := by
  have hto1 := or_shiftLeft_toNat (n := 1) (lo := b0) (field := b1) (by omega) (by omega)
  have hto2 := or_shiftLeft_toNat (n := 2) (lo := b0 ||| (b1 <<< 1)) (field := b2) (by omega) (by omega)
  have hto4 := or_shiftLeft_toNat (n := 4) (lo := b0 ||| (b1 <<< 1) ||| (b2 <<< 2)) (field := b4) (by omega) (by omega)
  rw [or_shiftLeft_toNat (by omega) (by omega)]
  omega

section
variable (axis : Axis) (col nib : Direction) (scan : ScanDirection) (layout : ComLayout)

theorem axisBit_toNat : (axisBit axis).toNat = if axis = .vertical then 1 else 0 := by cases axis <;> rfl

theorem columnBit_toNat : (columnBit col).toNat = if col = .reverse then 1 else 0 := by cases col <;> rfl

theorem nibbleBit_toNat : (nibbleBit nib).toNat = if nib = .forward then 1 else 0 := by cases nib <;> rfl

theorem scanBit_toNat : (scanBit scan).toNat = if scan = .lastRowFirst then 1 else 0 := by cases scan <;> rfl

theorem interlaceBit_toNat : (interlaceBit layout).toNat = if layout = .interlaced then 1 else 0 := by
  cases layout <;> rfl

/-- The fields of p0 as addends. -/
theorem remapP0_toNat :
    (remapP0 axis col nib scan layout).toNat =
      (if axis = .vertical then 1 else 0) + (if col = .reverse then 2 else 0) + (if nib = .forward then 4 else 0) +
        (if scan = .lastRowFirst then 16 else 0) + (if layout = .interlaced then 32 else 0) := by
  have hbit (p : Prop) [Decidable p] : (if p then 1 else 0) ≤ 1 := by split <;> decide
  rw [remapP0, orFields_toNat ((axisBit_toNat axis).trans_le (hbit _)) ((columnBit_toNat col).trans_le (hbit _))
    ((nibbleBit_toNat nib).trans_le (hbit _)) ((scanBit_toNat scan).trans_le (hbit _))
    ((interlaceBit_toNat layout).trans_le (hbit _)), axisBit_toNat, columnBit_toNat, nibbleBit_toNat, scanBit_toNat,
    interlaceBit_toNat]
  simp only [mul_ite, mul_one, mul_zero]

/-- The constant bit 0 of p1 and the dual bit 4. -/
theorem remapP1_toNat : (remapP1 layout).toNat = if layout = .dualProgressive then 17 else 1 := by
  cases layout <;> rfl

end

end Sys2Proof.Operands
end

section
/-! SUPPORT. The ranges of the commands' parameters in numbers (60_exceptions.md R201, R202): what well-formed means for
each command that has a check, and which intents raise which error. -/

namespace Sys2Proof.Machine

open Operands Params

/-! ### In range, command by command -/

section
variable {line start stop phase1 phase2 fosc divset v : Byte} {table : List Byte}

/-- R121. -/
theorem setStartLine_wf_iff : (Instr.setStartLine line).wf = true ↔ line.toNat ≤ 127 := by
  simp [Instr.wf, inRange_iff]

/-- R122. -/
theorem setDisplayOffset_wf_iff : (Instr.setDisplayOffset line).wf = true ↔ line.toNat ≤ 127 := by
  simp [Instr.wf, inRange_iff]

/-- R124: with the order check, the bound on the start follows from the one on the end. -/
theorem enablePartialDisplay_wf_iff :
    (Instr.enablePartialDisplay start stop).wf = true ↔ start.toNat ≤ stop.toNat ∧ stop.toNat ≤ 127 := by
  simp only [Instr.wf, Bool.and_eq_true, inRange_iff, decide_eq_true_eq, maxRow]
  omega

/-- R132. -/
theorem setPhaseLengths_wf_iff :
    (Instr.setPhaseLengths phase1 phase2).wf = true ↔
      5 ≤ phase1.toNat ∧ phase1.toNat ≤ 31 ∧ 3 ≤ phase2.toNat ∧ phase2.toNat ≤ 15 := by
  simp [Instr.wf, inRange_iff, and_assoc]

/-- R133. -/
theorem setClockFoscDivset_wf_iff :
    (Instr.setClockFoscDivset fosc divset).wf = true ↔ fosc.toNat ≤ 15 ∧ divset.toNat ≤ 10 := by
  simp [Instr.wf, inRange_iff]

/-- R135. -/
theorem setSecondPrechargePeriod_wf_iff : (Instr.setSecondPrechargePeriod v).wf = true ↔ v.toNat ≤ 15 := by
  simp [Instr.wf, inRange_iff]

/-- R136. -/
theorem setPreChargeVoltage_wf_iff : (Instr.setPreChargeVoltage v).wf = true ↔ v.toNat ≤ 31 := by
  simp [Instr.wf, inRange_iff]

/-- R137. -/
theorem setComDeselectVoltage_wf_iff : (Instr.setComDeselectVoltage v).wf = true ↔ v.toNat ≤ 7 := by
  simp [Instr.wf, inRange_iff]

/-- R147. -/
theorem setMasterContrast_wf_iff : (Instr.setMasterContrast v).wf = true ↔ v.toNat ≤ 15 := by
  simp [Instr.wf, inRange_iff]

/-- R149. -/
theorem setGrayScaleTable_wf_iff : (Instr.setGrayScaleTable table).wf = true ↔ table.length = 15 := by
  simp [Instr.wf]

end

/-! ### Which error an intent raises -/

/-- The codec's check of a table is of its length alone (R149, R202). -/
theorem codec_setGrayScaleTable (table : List Byte) :
    codec (.setGrayScaleTable table) = if table.length = 15 then .ok ⟨0xB8, table⟩ else .err .badTableLength := by
  rw [codec_eq]
  simp only [setGrayScaleTable_wf_iff]
  rfl

section
variable {i : Instr}

theorem opcode_ne_opcSetGrayScaleTable (h : ∀ table, i ≠ .setGrayScaleTable table) :
    i.opcode ≠ opcSetGrayScaleTable := by
  cases i with
  | setGrayScaleTable table => exact absurd rfl (h table)
  | _ => simp only [Instr.opcode]; decide

/-- But for the table's command, whose parameters lie in their ranges exactly under `p`, the codec's one error is
OutOfRange (R201). -/
theorem codec_of_wf_iff {p : Prop} [Decidable p] (h : ∀ table, i ≠ .setGrayScaleTable table)
    (hwf : i.wf = true ↔ p) : codec i = if p then .ok ⟨i.opcode, i.params⟩ else .err .outOfRange := by
  rw [codec_eq, if_neg (opcode_ne_opcSetGrayScaleTable h)]
  simp only [hwf]

/-- R201's table lists exactly the violations of the commands' ranges, the table length (R202) apart. -/
theorem outOfRangeCause_iff (h : ∀ table, i ≠ .setGrayScaleTable table) : OutOfRangeCause i ↔ ¬ i.wf = true := by
  cases i with
  | setGrayScaleTable table => exact absurd rfl (h table)
  | enableGrayScaleTable | writeRam | readRam | setRemapping _ _ _ _ _ | setDisplayModeAllOff | setDisplayModeAllOn
  | setDisplayModeNormal | setDisplayModeInverse | disablePartialDisplay | functionSelect _ | setSleepModeTrue
  | setSleepModeFalse | setDisplayEnhancements _ _ | setDefaultGrayScaleTable | setContrastCurrent _
  | setCommandLock _ => exact ⟨False.elim, fun hw => hw rfl⟩
  | setColumnAddress _ _ => rw [OutOfRangeCause, setColumnAddress_wf_iff]; omega
  | setRowAddress _ _ => rw [OutOfRangeCause, setRowAddress_wf_iff]; omega
  | setStartLine _ => rw [OutOfRangeCause, setStartLine_wf_iff, not_le]
  | setDisplayOffset _ => rw [OutOfRangeCause, setDisplayOffset_wf_iff, not_le]
  | enablePartialDisplay _ _ => rw [OutOfRangeCause, enablePartialDisplay_wf_iff]; omega
  | setPhaseLengths _ _ => rw [OutOfRangeCause, setPhaseLengths_wf_iff]; omega
  | setClockFoscDivset _ _ => rw [OutOfRangeCause, setClockFoscDivset_wf_iff]; omega
  | setSecondPrechargePeriod _ => rw [OutOfRangeCause, setSecondPrechargePeriod_wf_iff, not_le]
  | setPreChargeVoltage _ => rw [OutOfRangeCause, setPreChargeVoltage_wf_iff, not_le]
  | setComDeselectVoltage _ => rw [OutOfRangeCause, setComDeselectVoltage_wf_iff, not_le]
  | setMasterContrast _ => rw [OutOfRangeCause, setMasterContrast_wf_iff, not_le]
  | setMuxRatio _ => rw [OutOfRangeCause, setMuxRatio_wf_iff]; omega

/-- R201, the codec's part. -/
theorem codec_eq_outOfRange_iff : codec i = .err .outOfRange ↔ OutOfRangeCause i := by
  by_cases h : ∃ table, i = .setGrayScaleTable table
  · obtain ⟨table, rfl⟩ := h
    rw [codec_setGrayScaleTable]
    split <;> simp [OutOfRangeCause]
  · rw [not_exists] at h
    rw [codec_of_wf_iff h Iff.rfl, outOfRangeCause_iff h]
    split <;> simp [*]

/-- R202. -/
theorem codec_eq_badTableLength_iff :
    codec i = .err .badTableLength ↔ ∃ table, i = .setGrayScaleTable table ∧ table.length ≠ 15 := by
  by_cases h : ∃ table, i = .setGrayScaleTable table
  · obtain ⟨table, rfl⟩ := h
    rw [codec_setGrayScaleTable]
    split <;> simp [*]
  · rw [not_exists] at h
    rw [codec_of_wf_iff h Iff.rfl]
    split <;> simp [h]

end

end Sys2Proof.Machine
end

section
/-! SUPPORT. What presenting an intent answers (30_encoding.md R80 to R86; 60_exceptions.md R201, R202): its wire image,
its error, or, for an extension intent without EXT_COMMANDS, a refusal; and the obligations on the codec. -/

namespace Sys2Proof.Machine

/-! ### The three ends of a presented intent -/

section
variable {i : Instr} {s : State}

/-- An admitted intent in range completes with its wire image (R81, R83). -/
theorem exec_answers_wireImage (ha : i.admitted s.config.extCommands = true) (hw : i.wf = true) :
    exec i s = answers s (.ok ⟨i.opcode, i.params⟩) := by
  rw [exec_answers_codec ha, codec_eq, if_pos hw]

/-- An intent of the base command set is in every machine's intent type (R85). -/
theorem exec_answers_of_core (hcore : i.isExtension = false) (hw : i.wf = true) :
    exec i s = answers s (.ok ⟨i.opcode, i.params⟩) :=
  exec_answers_wireImage (admitted_of_core hcore) hw

/-- With EXT_COMMANDS true every intent is admitted (R86). -/
theorem admitted_of_ext {ext : Bool} (h : ext = true) : i.admitted ext = true := by
  rw [Instr.admitted, h, Bool.true_or]

/-- An extension intent does not exist without EXT_COMMANDS (R86, D19). -/
theorem exec_refused_of_extension (hext : i.isExtension = true) (h : s.config.extCommands = false) :
    exec i s = .refused .extensionNotAdmitted := by
  rw [exec_eq, Instr.admitted, h, hext]
  rfl

/-- The answers tell the codec's results apart. -/
theorem answers_inj {r r' : CodecResult} : answers s r = answers s r' ↔ r = r' := by
  simp [answers]

end

/-! ### The codec as a whole -/

/-- Settles O18: an admitted intent answers the codec's result, whose two errors have exactly these causes. -/
theorem codecErrorCauses : Obligations.CodecErrorCauses := by
  intro i s ha
  rw [exec_answers_codec ha, answers_inj, answers_inj]
  exact ⟨codec_eq_outOfRange_iff, codec_eq_badTableLength_iff⟩

/-- Settles O19: the encoded command has the encoder's own opcode and parameters. -/
theorem execReturnsWireImage : Obligations.ExecReturnsWireImage := by
  intro i s ha hw
  exact ⟨⟨i.opcode, i.params⟩, exec_answers_wireImage ha hw, rfl⟩

/-! ### Address and RAM commands -/

/-- Settles O2: each bound on its own. -/
theorem setRowAddressResult : Obligations.SetRowAddressResult := by
  intro start stop s
  exact exec_answers_of_wf_iff rfl setRowAddress_wf_iff s

/-- Settles O3: neither command has a parameter. -/
theorem ramCommandsResult : Obligations.RamCommandsResult := by
  intro s
  exact ⟨exec_answers_of_core rfl rfl, exec_answers_of_core rfl rfl⟩

/-! ### Geometry and display-mode commands -/

/-- Settles O4: every setting is in range, and the two bytes are the sums of their fields. -/
theorem setRemappingResult : Obligations.SetRemappingResult := by
  intro axis col nib scan layout s
  exact ⟨_, _, exec_answers_of_core rfl rfl, Operands.remapP0_toNat axis col nib scan layout,
    Operands.remapP1_toNat layout⟩

/-- Settles O5: both commands are of the base command set, with the same range. -/
theorem lineCommandsResult : Obligations.LineCommandsResult := by
  intro line s
  exact ⟨exec_answers_of_wf_iff rfl setStartLine_wf_iff s, exec_answers_of_wf_iff rfl setDisplayOffset_wf_iff s⟩

/-- Settles O6: the selector value is in the opcode byte (R87). -/
theorem setDisplayModeResult : Obligations.SetDisplayModeResult := by
  intro s
  exact ⟨exec_answers_of_core rfl rfl, exec_answers_of_core rfl rfl, exec_answers_of_core rfl rfl,
    exec_answers_of_core rfl rfl⟩

/-- Settles O7: neither command has a parameter, and both are of the base command set. -/
theorem partialOffAndDefaultTableResult : Obligations.PartialOffAndDefaultTableResult := by
  intro s
  exact ⟨exec_answers_of_core rfl rfl, exec_answers_of_core rfl rfl⟩

/-! ### Power, timing, voltage and lock commands -/

/-- Settles O9: a Boolean has no range, and its byte is one of two (R92). -/
theorem booleanCommandsResult : Obligations.BooleanCommandsResult := by
  intro a b s
  exact ⟨exec_answers_of_core rfl rfl, exec_answers_of_core rfl rfl, exec_answers_of_core rfl rfl⟩

/-- Settles O10: the selector value is in the opcode byte (R87). -/
theorem setSleepModeResult : Obligations.SetSleepModeResult := by
  intro s
  exact ⟨exec_answers_of_core rfl rfl, exec_answers_of_core rfl rfl⟩

/-- Settles O11: in range the two fields lie in their nibbles, so the byte is their sum (R90). -/
theorem setPhaseLengthsResult : Obligations.SetPhaseLengthsResult := by
  intro phase1 phase2 s
  rw [exec_answers_of_wf_iff rfl setPhaseLengths_wf_iff s]
  split
  case isTrue h => rw [Instr.opcode, Instr.params, phaseByte_of_wf (setPhaseLengths_wf_iff.2 h)]
  case isFalse => rfl

/-- Settles O12: in range the two fields lie in their nibbles, so the byte is their sum (R91). -/
theorem setClockFoscDivsetResult : Obligations.SetClockFoscDivsetResult := by
  intro fosc divset s
  rw [exec_answers_of_wf_iff rfl setClockFoscDivset_wf_iff s]
  split
  case isTrue h => rw [Instr.opcode, Instr.params, clockByte_of_wf (setClockFoscDivset_wf_iff.2 h)]
  case isFalse => rfl

/-- Settles O13: three commands of the base command set, each with its own upper limit. -/
theorem prechargeAndVoltageResult : Obligations.PrechargeAndVoltageResult := by
  intro v s
  exact ⟨exec_answers_of_wf_iff rfl setSecondPrechargePeriod_wf_iff s,
    exec_answers_of_wf_iff rfl setPreChargeVoltage_wf_iff s,
    exec_answers_of_wf_iff rfl setComDeselectVoltage_wf_iff s⟩

/-! ### Contrast commands -/

/-- Settles O14: the contrast current has no range check, the master contrast has one (R146, R147). -/
theorem contrastResult : Obligations.ContrastResult := by
  intro c s
  exact ⟨exec_answers_of_core rfl rfl, exec_answers_of_wf_iff rfl setMasterContrast_wf_iff s⟩

/-! ### Extension commands -/

/-- Settles O15: with EXT_COMMANDS each of the three is admitted, and answers what the codec says of it. -/
theorem extensionCommandsResult : Obligations.ExtensionCommandsResult := by
  intro start stop table s hext
  refine ⟨exec_answers_wireImage (admitted_of_ext hext) rfl, ?_, ?_⟩
  · rw [exec_answers_codec (admitted_of_ext hext), codec_of_wf_iff (i := .enablePartialDisplay start stop) nofun
      enablePartialDisplay_wf_iff]
    rfl
  · rw [exec_answers_codec (admitted_of_ext hext), codec_setGrayScaleTable]

/-- Settles O16: the three are extension intents, whatever their operands. -/
theorem extensionCommandsAbsent : Obligations.ExtensionCommandsAbsent := by
  intro start stop table s hext
  exact ⟨exec_refused_of_extension rfl hext, exec_refused_of_extension rfl hext, exec_refused_of_extension rfl hext⟩

end Sys2Proof.Machine
end
